-- ==== Sys2Proof/Word.lean ====
section
/-! DEFINITION. The word types of the Reris and the plainest data they are used with. -/

namespace Sys2Proof

/-- A general register's value (R41). -/
abbrev Word := BitVec 64

/-- A byte of any memory (R3). -/
abbrev Byte := BitVec 8

/-- One 32-bit syllable (R275). -/
abbrev Syllable := BitVec 32

/-- A vector register's value, 256 bytes (R41). -/
abbrev VWord := BitVec 2048

/-- A mask or codebook register's value, 32 bytes (R41). -/
abbrev QWord := BitVec 256

end Sys2Proof
end

