-- ==== Sys2Proof/Config.lean ====
section
/-! DEFINITION. What the spec leaves open or only names: free choices, key material and the functions that the
root of trust computes. Each is an opaque constant, so no proof sees a value of it. -/

namespace Sys2Proof.Config

/-- The choice made where the spec allows several (R115, R137): applied to a counter of the state, reduced modulo the
number of candidates. log 3. -/
opaque freeChoice : Nat → Nat

/-- The value of a byte that the spec names without giving it: the signature of a seal record, an SPDM response, a
wrapped session (R235, R237, R245). Applied to a name of the blob and an index. log 8. -/
opaque signatureByte : Nat → List (BitVec 8) → Nat → BitVec 8

/-- AES-256-GCM opening (R141, NIST SP 800-38D) under the key that a slot held at a version: slot, version, initial
value, additional data, ciphertext, tag; none where the tag does not verify. log 8. -/
opaque gcmOpen : Nat → Nat → List (BitVec 8) → List (BitVec 8) → List (BitVec 8) → List (BitVec 8) →
  Option (List (BitVec 8))

/-- Byte i of the AES-256-GCM keystream (R239) under the data key that HKDF-SHA-384 derives: checkpoint slot and version,
tenant slot and version, serial; initial value. log 8. -/
opaque ckptStreamByte : Nat × Nat × Nat × Nat × Nat → List (BitVec 8) → Nat → BitVec 8

/-- Byte i of the tag of a checkpoint image (R240) under the same key: initial value, additional data, ciphertext. log 8. -/
opaque ckptTagByte : Nat × Nat × Nat × Nat × Nat → List (BitVec 8) → List (BitVec 8) → List (BitVec 8) → Nat → BitVec 8

/-- The device unique secret (R219): fuses, read by the root of trust alone. log 8. -/
opaque deviceSecret : BitVec 256

/-- The device identity keys that the root of trust derives at a boot from the device unique secret and the firmware measurement (R219).
log 8. -/
opaque identityKey : BitVec 256 → List (BitVec 8) → BitVec 384

/-- The certificate chain that ends in an identity key (R245). log 8. -/
opaque certificateChain : BitVec 384 → List (BitVec 8)

/-- Byte i of a seal session wrapped with AES-256-GCM under the per-boot key of a boot (R219, R237): boot, additional data, session.
log 8. -/
opaque wrappedByte : Nat → List (BitVec 8) → List (BitVec 8) → Nat → BitVec 8

/-- Byte i of the AES-256 counter-mode keystream of an HBM line (R223): key slot and version; stack, line and counter. log 8. -/
opaque lineStreamByte : Nat × Nat → Nat × Nat × Nat → Nat → BitVec 8

/-- The 64-bit MAC of an HBM line (R223) under the same key and initial value, over its stored bytes. log 8. -/
opaque lineMac : Nat × Nat → Nat × Nat × Nat → List (BitVec 8) → BitVec 64

/-- The 64-bit MAC of a block of the counter tree (R224): stack, level, block and the parent's counter; MAJOR and the minors. log 8. -/
opaque blockMac : Nat × Nat × Nat × Nat → Nat → List Nat → BitVec 64

/-- Byte i of the AES-256-GCM keystream of a flit (R227) under a key: slot and version of a link key, 65,536 and the boot with the link
direction, or 32,768 and the interface with the boot; number of the flit. log 8. -/
opaque flitStreamByte : Nat × Nat → Nat → Nat → BitVec 8

/-- The 64-bit tag of a flit under the same key (R227), over its ciphertext. log 8. -/
opaque flitTag : Nat × Nat → Nat → List (BitVec 8) → BitVec 64

/-- What the root of trust measures in a block at bring-up (R245, R271): block number, what the block holds, and byte. log 8. -/
opaque measurementByte : Nat → Nat → Nat → BitVec 8

/-- SHA-384 (R220, R233, R245), which the spec names and does not define. log 8. -/
opaque sha384Byte : List (BitVec 8) → Nat → BitVec 8

/-- Module power in W as the management core measures it (R274, PWRMEAS). log 3. -/
opaque powerMeasured : Nat → BitVec 12

/-- PWRLIM that the management core sets on a core for a module limit in W (R14, R273): the spec gives no table. log 3. -/
opaque powerToLimit : Nat → Nat → BitVec 16

/-- The number of this package in ring lists and flow tables (R175, R248, R268), which its set-up fixes. log 15. -/
opaque packageNumber : BitVec 16

/-- A value that the spec names without giving it, such as the failing address of a collective whose ranks differ (R170, R177):
applied to a counter of the state. log 3. -/
opaque openValue : Nat → BitVec 64

/-- A byte that the array or a SEAL OPEN reads from a line of X or Y that has failed (R103): no rule gives a value. Applied to the buffer (true is Y) and the address. log 23. -/
opaque failedByte : Bool → Nat → BitVec 8

end Sys2Proof.Config
end

