-- ==== Sys2Proof/Syntax.lean ====
section
/-! DEFINITION. The instructions and events of the Reris: one constructor of Instr per row of the spec's
table, with the records that events carry in from the host, the management core and the root of trust. -/

namespace Sys2Proof

/-- A guard (R28, R275): the predicate PG and its sense PN. -/
structure Guard where
  pg : BitVec 3
  pn : Bool
deriving DecidableEq, Repr

/-- The guard of a syllable written without one: PG = 0, PN = 0, always true. -/
def Guard.always : Guard := ⟨0, false⟩

/-- What an address translates to (R97): HBM of this package, a peer package's memory, or host memory. -/
inductive Dest where
  | hbm (dpa : Nat)
  | peer (pkg addr : Nat)
  | host (addr : Nat)
deriving DecidableEq, Repr

/-- The host IOMMU's answer to an ATS Translation Request (R216): a page of `2 ^ logSize` bytes at
virtual address `va`, or no access. -/
structure AtsReply where
  granted : Bool
  va : Nat
  logSize : Nat
  dest : Dest
  writable : Bool
deriving DecidableEq, Repr

/-- The registers that are locked outside CONFIG_UNLOCKED (R263, R265). -/
inductive LockedReg where
  | lqbase | lqsize
  | msix (vector : Nat) (high : Bool)
  | part | defcore | tslot
  | control
deriving DecidableEq, Repr

/-- One host access to an interface's register pages (R262): `isPrivate` chooses the page, `trusted` is the T bit
received on the interface's own selective stream, and `write` holds the value of a write. -/
structure PageAccess where
  isPrivate : Bool
  trusted : Bool
  offset : Nat
  write : Option Word
deriving DecidableEq, Repr

/-- What an IDE_KM names (R227): an interface, and the link slots of its stream's keys out of the package and into it. -/
structure IdeKeys where
  iface : Nat
  tx : Nat
  rx : Nat
deriving DecidableEq, Repr

/-- Power states of the physical function (R273). -/
inductive PowerState where
  | d0 | d3hot | d3cold
deriving DecidableEq, Repr

/-- States of a partition (R248, offset 1). -/
inductive PartState where
  | free | configured | running | descheduled | stopping
deriving DecidableEq, Repr

/-- A partition descriptor (R248). `num` is the number at offset 0; addresses and handles are numbers. The table
addresses are kept beside the entries of the tables that the management core loads from them. -/
structure PartDesc where
  state : PartState
  cores : List Nat
  memKey : BitVec 13
  taskLen : Nat
  taskBase : Nat
  placementBase : Nat
  placement : List (BitVec 16)
  collBase : Nat
  collLen : Nat
  collGroups : List (Nat × List (BitVec 32))
  age : BitVec 32
  flowBase : Nat
  overflowBase : Nat
  overflowLen : Nat
  faultLog : Nat
  faultLogK : Nat
  engineRing : Nat
  engineRingK : Nat
  launchCtr : Word
  memoryCtr : Word
  engineCtr : Word
  taskCtr : Word
  saveArea : List Nat
  quota : List (Nat × Nat)
  wellShare : Nat
  ringK : Nat
  poolShare : Nat
  hashkey : List Word
  tvec : Word
  nonconf : Bool
  tenantMap : List (BitVec 16)
  tenantBase : Nat
deriving DecidableEq, Repr

/-- A partition that holds nothing. -/
def PartDesc.none : PartDesc :=
  { state := .free, cores := [], memKey := 0, taskLen := 0, taskBase := 0, placementBase := 0, placement := [], collBase := 0, collLen := 0, collGroups := [],
    age := 0, flowBase := 0, overflowBase := 0, overflowLen := 0, faultLog := 0, faultLogK := 0, engineRing := 0,
    engineRingK := 0, launchCtr := 0, memoryCtr := 0, engineCtr := 0, taskCtr := 0, saveArea := [], quota := [],
    wellShare := 0, ringK := 0, poolShare := 0, hashkey := [], tvec := 0, nonconf := false, tenantMap := [], tenantBase := 0 }

/-- A bandwidth band of a partition at a slice (R254). -/
structure Band where
  floor : Nat
  ceiling : Nat
  weight : Nat
deriving DecidableEq, Repr

/-- The new values that a layout change writes (R258, R259): descriptors, S windows (cluster, partition, register
of R251), ring table entries (die, slot, entry), bands (slice, partition, band), interface registers of R256 and
the members of time-share groups with their slice lengths in microseconds (R250). -/
structure LayoutChange where
  serial : Nat
  parts : List (Nat × PartDesc)
  windows : List (Nat × Nat × Word)
  ring : List (Nat × Nat × Byte)
  bands : List (Nat × Nat × Band)
  ifaces : List (Nat × Word)
  groups : List (List (Nat × Nat))
  flows : List (Nat × Nat × Word)
deriving DecidableEq, Repr

/-- A management-core write of a key slot (R220): the descriptor word of its RW fields, or the import of a
wrapped key (a seal slot's with its public key), which advances the version and fixes the measurement and the grant list (R220, R221,
R238). -/
inductive KeyWrite where
  | descriptor (w : Word)
  | importKey (blob : List Byte) (grants : List (BitVec 13))
deriving DecidableEq, Repr

/-- One constructor per row of the table of operations and events: 116 syllables, with the fields of
their encodings, then 85 events, each a step of the part (R275 to R283; 95_what_each_step_holds.md).
The stop bit S is not a field: it delimits bundles and is read when a bundle is decoded (R281).
`x` is the payload of the LIMM that extends the syllable, where one follows it (R279). -/
inductive Instr where
  /-- ADD, R294. -/
  | add (gd : Guard) (d a b : BitVec 5)
  /-- AND, R294. -/
  | and (gd : Guard) (d a b : BitVec 5)
  /-- ANDN, R294. -/
  | andn (gd : Guard) (d a b : BitVec 5)
  /-- CLZ, R294. -/
  | clz (gd : Guard) (d a : BitVec 5)
  /-- ADDI, R295. -/
  | addi (gd : Guard) (d a : BitVec 5) (i : BitVec 10) (x : Option (BitVec 20))
  /-- ANDI, R295. -/
  | andi (gd : Guard) (d a : BitVec 5) (i : BitVec 10) (x : Option (BitVec 20))
  /-- ORI, R337. -/
  | ori (gd : Guard) (d a : BitVec 5) (i : BitVec 10) (x : Option (BitVec 20))
  /-- AMO, R297. -/
  | amo (gd : Guard) (r a : BitVec 5) (f : BitVec 4) (c : BitVec 3) (o : BitVec 2) (z : Bool)
  /-- CAS, R297. -/
  | cas (gd : Guard) (r a : BitVec 5) (q : BitVec 3) (c : BitVec 3) (o : BitVec 2) (z : Bool)
  /-- CASL, R299. -/
  | casl (gd : Guard) (r a : BitVec 5) (q : BitVec 3) (k : Bool) (c : BitVec 3) (o : BitVec 2) (z : Bool)
  /-- BKPT, R300. -/
  | bkpt (gd : Guard) (k : BitVec 10) (x : Option (BitVec 20))
  /-- BRA, R301. -/
  | bra (gd : Guard) (o : BitVec 20)
  /-- CALL, R301. -/
  | call (gd : Guard) (o : BitVec 20)
  /-- CADV, R303. -/
  | cadv (gd : Guard) (r a : BitVec 5) (c : BitVec 3) (o : BitVec 2)
  /-- CREAD, R303. -/
  | cread (gd : Guard) (r a : BitVec 5) (c : BitVec 3) (o : BitVec 2)
  /-- CWAIT, R303. -/
  | cwait (gd : Guard) (r a : BitVec 5) (c : BitVec 3) (o : BitVec 2)
  /-- CGET, R306. -/
  | cget (gd : Guard) (c : BitVec 10) (g : BitVec 5)
  /-- CSET, R307. -/
  | cset (gd : Guard) (c : BitVec 10) (g : BitVec 5) (x : Option (BitVec 20))
  /-- CKPT, R308. -/
  | ckpt (gd : Guard) (a c : BitVec 5)
  /-- CMP, R310. -/
  | cmp (gd : Guard) (d : BitVec 3) (a b : BitVec 5) (c : BitVec 4) (z : BitVec 3)
  /-- CMPI, R310. -/
  | cmpi (gd : Guard) (d : BitVec 3) (a : BitVec 5) (i : BitVec 5) (c : BitVec 4) (z : BitVec 3)
  /-- COLL, R311. -/
  | coll (gd : Guard) (a b c : BitVec 5) (t : BitVec 3) (o : BitVec 2)
  /-- CPY, R312. -/
  | cpy (gd : Guard) (a b c : BitVec 5) (x : Bool) (h : BitVec 2)
  /-- CPYG, R312. -/
  | cpyg (gd : Guard) (a b c : BitVec 5) (x : Bool) (h : BitVec 2)
  /-- CPYX, R312. -/
  | cpyx (gd : Guard) (a b c : BitVec 5) (x : Bool) (h : BitVec 2)
  /-- DECL, R315. -/
  | decl (gd : Guard) (g : BitVec 5)
  /-- DIV, R318. -/
  | div (gd : Guard) (d a b : BitVec 5) (u : Bool)
  /-- REM, R318. -/
  | rem (gd : Guard) (d a b : BitVec 5) (u : Bool)
  /-- MAX, R318. -/
  | max (gd : Guard) (d a b : BitVec 5) (u : Bool)
  /-- MIN, R318. -/
  | min (gd : Guard) (d a b : BitVec 5) (u : Bool)
  /-- MUL, R318. -/
  | mul (gd : Guard) (d a b : BitVec 5)
  /-- MULH, R318. -/
  | mulh (gd : Guard) (d a b : BitVec 5) (u : Bool)
  /-- OR, R318. -/
  | or (gd : Guard) (d a b : BitVec 5)
  /-- POPC, R318. -/
  | popc (gd : Guard) (d a : BitVec 5)
  /-- XOR, R400. -/
  | xor (gd : Guard) (d a b : BitVec 5)
  /-- SUB, R353. -/
  | sub (gd : Guard) (d a b : BitVec 5)
  /-- SHL, R353. -/
  | shl (gd : Guard) (d a b : BitVec 5)
  /-- SHR, R353. -/
  | shr (gd : Guard) (d a b : BitVec 5)
  /-- SHRA, R353. -/
  | shra (gd : Guard) (d a b : BitVec 5)
  /-- SEL, R353. -/
  | sel (gd : Guard) (d a b : BitVec 5) (q : BitVec 3)
  /-- SHLI, R358. -/
  | shli (gd : Guard) (d a : BitVec 5) (h : BitVec 6) (x : Option (BitVec 20))
  /-- SHRI, R358. -/
  | shri (gd : Guard) (d a : BitVec 5) (r : Bool) (h : BitVec 6) (x : Option (BitVec 20))
  /-- END, R319. -/
  | endTask (gd : Guard)
  /-- FENCE, R321. -/
  | fence (gd : Guard) (c : BitVec 3) (o : BitVec 2)
  /-- JR, R323. -/
  | jr (gd : Guard) (a : BitVec 5)
  /-- RET, R323. -/
  | ret (gd : Guard)
  /-- KROT, R324. -/
  | krot (gd : Guard) (a b c : BitVec 5)
  /-- LD, R326. -/
  | ld (gd : Guard) (r b : BitVec 5) (c : BitVec 3) (z : BitVec 2) (o : BitVec 5)
  /-- ST, R360. -/
  | st (gd : Guard) (r b : BitVec 5) (c : BitVec 3) (z : BitVec 2) (o : BitVec 5)
  /-- LI, R329. -/
  | li (gd : Guard) (d : BitVec 5) (i : BitVec 15) (x : Option (BitVec 20))
  /-- LIH, R329. -/
  | lih (gd : Guard) (d : BitVec 5) (i : BitVec 15) (x : Option (BitVec 20))
  /-- LIMM, R331. -/
  | limm (l : BitVec 20)
  /-- LOOP, R332. -/
  | loop (gd : Guard) (d : BitVec 5) (i : BitVec 15) (x : Option (BitVec 20))
  /-- MCFG, R146. -/
  | mcfg (gd : Guard) (a : BitVec 5)
  /-- MSCL, R146. -/
  | mscl (gd : Guard) (a : BitVec 5)
  /-- MMS, R152. -/
  | mms (gd : Guard) (a b c : BitVec 5) (m : BitVec 5)
  /-- MDRN, R158. -/
  | mdrn (gd : Guard) (a b c : BitVec 5)
  /-- WLD, R397. -/
  | wld (gd : Guard) (a : BitVec 5)
  /-- NOP, R336. -/
  | nop (gd : Guard)
  /-- PLOG, R338. -/
  | plog (gd : Guard) (d a b : BitVec 3) (c : BitVec 4)
  /-- PROBE, R105. -/
  | probe (gd : Guard) (a b c : BitVec 5) (q : BitVec 3)
  /-- RED, R342. -/
  | red (gd : Guard) (r a : BitVec 5) (f : BitVec 4) (c : BitVec 3) (o : BitVec 2) (z : Bool)
  /-- RSTR, R345. -/
  | rstr (gd : Guard) (g : BitVec 5)
  /-- SCRUB, R347. -/
  | scrub (gd : Guard) (a b c : BitVec 5)
  /-- SEAL_OPEN, R231. -/
  | sealOpen (gd : Guard) (a c : BitVec 5)
  /-- ABSORB, R232. -/
  | absorb (gd : Guard) (a b c : BitVec 5) (h : BitVec 2)
  /-- SEAL_CLOSE, R233. -/
  | sealClose (gd : Guard)
  /-- SFCFG, R357. -/
  | sfcfg (gd : Guard) (a : BitVec 5)
  /-- SFX, R356. -/
  | sfx (gd : Guard) (a b c : BitVec 5) (f : BitVec 5)
  /-- SPAWN, R185. -/
  | spawn (gd : Guard) (a b : BitVec 5)
  /-- TRAP, R363. -/
  | trap (gd : Guard) (a : BitVec 5) (k : BitVec 5) (x : Option (BitVec 20))
  /-- TRETN, R203. -/
  | tretn (gd : Guard)
  /-- WAITN, R37. -/
  | waitn (gd : Guard) (a b c d e : BitVec 4)
  /-- VABS, R367. -/
  | vabs (gd : Guard) (t : BitVec 4) (d a : BitVec 5) (z : Bool)
  /-- VADD, R367. -/
  | vadd (gd : Guard) (t : BitVec 4) (d a b : BitVec 5) (z : Bool)
  /-- VAND, R367. -/
  | vand (gd : Guard) (t : BitVec 4) (d a b : BitVec 5) (z : Bool)
  /-- VBCAST, R368. -/
  | vbcast (gd : Guard) (t : BitVec 4) (d a : BitVec 5) (z : Bool)
  /-- VEXT, R368. -/
  | vext (gd : Guard) (t : BitVec 4) (d a b : BitVec 5)
  /-- VCAST, R369. -/
  | vcast (gd : Guard) (t : BitVec 4) (d a : BitVec 5)
  /-- VCVT, R370. -/
  | vcvt (gd : Guard) (t : BitVec 4) (d a : BitVec 5) (e : BitVec 4) (z : Bool)
  /-- VCBX, R371. -/
  | vcbx (gd : Guard) (d a : BitVec 5) (h q : BitVec 2) (z : Bool)
  /-- VCLAMP, R372. -/
  | vclamp (gd : Guard) (t : BitVec 4) (d a b : BitVec 5) (z : Bool)
  /-- VCMP, R373. -/
  | vcmp (gd : Guard) (t : BitVec 4) (m : BitVec 3) (a b : BitVec 5) (z : Bool)
  /-- VFCMP, R373. -/
  | vfcmp (gd : Guard) (t : BitVec 4) (m : BitVec 3) (a b : BitVec 5) (z : Bool)
  /-- VDOT, R374. -/
  | vdot (gd : Guard) (d a b : BitVec 5) (z : Bool)
  /-- VFDOT, R374. -/
  | vfdot (gd : Guard) (d a b : BitVec 5) (z : Bool)
  /-- VFADD, R375. -/
  | vfadd (gd : Guard) (t : BitVec 4) (d a b : BitVec 5) (z : Bool)
  /-- VFSUB, R375. -/
  | vfsub (gd : Guard) (t : BitVec 4) (d a b : BitVec 5) (z : Bool)
  /-- VFMUL, R375. -/
  | vfmul (gd : Guard) (t : BitVec 4) (d a b : BitVec 5) (z : Bool)
  /-- VFMA, R375. -/
  | vfma (gd : Guard) (t : BitVec 4) (d a b : BitVec 5) (z : Bool)
  /-- VFMIN, R375. -/
  | vfmin (gd : Guard) (t : BitVec 4) (d a b : BitVec 5) (z : Bool)
  /-- VFMAX, R375. -/
  | vfmax (gd : Guard) (t : BitVec 4) (d a b : BitVec 5) (z : Bool)
  /-- VGTH, R378. -/
  | vgth (gd : Guard) (r b : BitVec 5) (c : BitVec 3) (t : BitVec 4)
  /-- VLDS, R378. -/
  | vlds (gd : Guard) (r b : BitVec 5) (c : BitVec 3) (t : BitVec 4)
  /-- VSCT, R378. -/
  | vsct (gd : Guard) (r b : BitVec 5) (c : BitVec 3) (t : BitVec 4)
  /-- VINS, R381. -/
  | vins (gd : Guard) (t : BitVec 4) (d a b : BitVec 5)
  /-- VLD, R383. -/
  | vld (gd : Guard) (r b : BitVec 5) (c : BitVec 3) (t : BitVec 4) (q : Bool) (o : BitVec 2)
  /-- VST, R384. -/
  | vst (gd : Guard) (r b : BitVec 5) (c : BitVec 3) (t : BitVec 4) (q : Bool) (o : BitVec 2)
  /-- VMAD, R386. -/
  | vmad (gd : Guard) (t : BitVec 4) (d a b : BitVec 5) (z : Bool)
  /-- VMUL, R386. -/
  | vmul (gd : Guard) (t : BitVec 4) (d a b : BitVec 5) (z : Bool)
  /-- VMULH, R386. -/
  | vmulh (gd : Guard) (t : BitVec 4) (d a b : BitVec 5) (z : Bool)
  /-- VMAX, R387. -/
  | vmax (gd : Guard) (t : BitVec 4) (d a b : BitVec 5) (z : Bool)
  /-- VMIN, R387. -/
  | vmin (gd : Guard) (t : BitVec 4) (d a b : BitVec 5) (z : Bool)
  /-- VOR, R387. -/
  | vor (gd : Guard) (t : BitVec 4) (d a b : BitVec 5) (z : Bool)
  /-- VXOR, R387. -/
  | vxor (gd : Guard) (t : BitVec 4) (d a b : BitVec 5) (z : Bool)
  /-- VSHL, R387. -/
  | vshl (gd : Guard) (t : BitVec 4) (d a b : BitVec 5) (z : Bool)
  /-- VSHR, R387. -/
  | vshr (gd : Guard) (t : BitVec 4) (d a b : BitVec 5) (z : Bool)
  /-- VRSHR, R388. -/
  | vrshr (gd : Guard) (t : BitVec 4) (d a b : BitVec 5) (z : Bool)
  /-- VSUB, R387. -/
  | vsub (gd : Guard) (t : BitVec 4) (d a b : BitVec 5) (z : Bool)
  /-- VPERM, R389. -/
  | vperm (gd : Guard) (t : BitVec 4) (d a b : BitVec 5) (z : Bool)
  /-- VSLIDE, R389. -/
  | vslide (gd : Guard) (t : BitVec 4) (d a b : BitVec 5) (z : Bool)
  /-- VPK5, R390. -/
  | vpk5 (gd : Guard) (d a : BitVec 5) (k : BitVec 3)
  /-- VUPK5, R390. -/
  | vupk5 (gd : Guard) (d a : BitVec 5) (k : BitVec 3)
  /-- VRED, R392. -/
  | vred (gd : Guard) (t : BitVec 4) (d a b : BitVec 5) (z : Bool)
  /-- VSCAN, R392. -/
  | vscan (gd : Guard) (t : BitVec 4) (d a : BitVec 5) (z : Bool)
  /-- VSEL, R394. -/
  | vsel (gd : Guard) (m : BitVec 3) (d a b : BitVec 5)
  /-- LATCH1_WRITE, R207: the effect of a supervisor CSET of LATCH1 in the issuing context. -/
  | latch1Write (v : Word)
  /-- LATCH2_WRITE, R208: the effect of a supervisor CSET of LATCH2 in the issuing context. -/
  | latch2Write (v : Word)
  /-- KSLOT_WRITE, R49: the effect of a CSET of KSLOT in the issuing context. -/
  | kslotWrite (v : Word)
  /-- RESULT_LANDS, R21: the results of the context that are due land. -/
  | resultLands (core : Nat) (ctx : BitVec 2)
  /-- GL_RETURN, R23: the i-th outstanding variable-latency operation returns. -/
  | glReturn (core : Nat) (ctx : BitVec 2) (i : Nat)
  /-- NULLIFIED_BUNDLE, R29: the issuing context's next bundle is skipped. -/
  | nullifiedBundle (core : Nat)
  /-- CONTEXT_SWITCH, R32. -/
  | contextSwitch (core : Nat)
  /-- LIMITER_FREEZE, R40. -/
  | limiterFreeze (core : Nat)
  /-- BANK_CONFLICT_FREEZE, R96. -/
  | bankConflictFreeze (core : Nat)
  /-- INSTRUCTION_FETCH, R22, R282: a frozen cycle of an instruction-cache miss, which fetches the bundle. -/
  | instructionFetch (core : Nat)
  /-- TERMINATION_RETIRE, R204. -/
  | terminationRetire (core : Nat) (ctx : BitVec 2)
  /-- TASK_RETIRE, R184. -/
  | taskRetire (core : Nat) (ctx : BitVec 2)
  /-- STORE_PERFORMED, R113: store i of a publication is performed at its home. -/
  | storePerformed (pub i : Nat)
  /-- PUBLICATION_COMPLETE, R112. -/
  | publicationComplete (pub : Nat)
  /-- COUNTER_ADVANCE, R119: the i-th advance under way reaches its home. -/
  | counterAdvance (i : Nat)
  /-- WAITER_WAKE, R120. -/
  | waiterWake (die : Nat)
  /-- ATOMIC_PERFORMED, R121. -/
  | atomicPerformed (core : Nat) (ctx : BitVec 2) (i : Nat)
  /-- CASL_PERFORMED, R129. -/
  | caslPerformed (core : Nat) (ctx : BitVec 2) (i : Nat)
  /-- RED_PERFORMED, R124. -/
  | redPerformed (core : Nat) (ctx : BitVec 2) (i : Nat)
  /-- WELLHEAD_HANDOFF, R131. -/
  | wellheadHandoff (slice : Nat)
  /-- LAUNCH_ACCEPT, R182: the Pump accepts the i-th launch that has reached it. -/
  | launchAccept (die i : Nat)
  /-- LAUNCH_HANDOVER, R182: the oldest launch handed to this die enters its pool. -/
  | launchHandover (die : Nat)
  /-- TASK_SELECT, R195. -/
  | taskSelect (core : Nat) (ctx : BitVec 2)
  /-- TASK_AGEING, R194: one scheduled cycle passes for the die's ready tasks. -/
  | taskAgeing (die : Nat)
  /-- HOST_LAUNCH, R186. -/
  | hostLaunch (iface : Nat)
  /-- STAGING, R191. -/
  | staging (die i : Nat)
  /-- NEST_WALK, R188. -/
  | nestWalk (die i : Nat)
  /-- NEST_RETIRE, R190. -/
  | nestRetire (die i : Nat)
  /-- SHUTTER_COMPLETE, R149. -/
  | shutterComplete (core : Nat)
  /-- PASS_ROW, R152: the lock-step passes of the core advance one pass cycle. -/
  | passRow (core : Nat)
  /-- SKIP_PASS, R155. -/
  | skipPass (core : Nat)
  /-- DRAIN_ROW, R158. -/
  | drainRow (core : Nat)
  /-- COPY_COMPLETE, R134, R166. -/
  | copyComplete (core : Nat) (ch : BitVec 2)
  /-- SWEEP_COMPLETE, R171. -/
  | sweepComplete (core : Nat)
  /-- COLL_COMPLETE, R135: the i-th collective instance. -/
  | collComplete (i : Nat)
  /-- PROBE_FILL, R105: the i-th fill under way. -/
  | probeFill (i : Nat)
  /-- ABSORB_COMPLETE, R232. -/
  | absorbComplete (core : Nat) (ch : BitVec 2)
  /-- SEAL_RECORD_WRITE, R233. -/
  | sealRecordWrite (core : Nat) (ctx : BitVec 2)
  /-- KEY_INSTALL, R238. -/
  | keyInstall (slot : Nat)
  /-- REENCRYPTION_SWEEP, R238. -/
  | reencryptionSweep (slot : Nat)
  /-- SCRUB_COMPLETE, R242. -/
  | scrubComplete (core : Nat) (ctx : BitVec 2)
  /-- CKPT_COMPLETE, R239. -/
  | ckptComplete (core : Nat) (ctx : BitVec 2)
  /-- RSTR_COMPLETE, R241. -/
  | rstrComplete (core : Nat) (ctx : BitVec 2)
  /-- CORRECTABLE_ERROR, R103. -/
  | correctableError (unit : Nat) (addr : Word)
  /-- ATS_COMPLETION, R216. -/
  | atsCompletion (die i : Nat) (reply : AtsReply)
  /-- PRG_RESPONSE, R216. -/
  | prgResponse (die i : Nat) (ok : Bool)
  /-- ATS_TIMEOUT, R216. -/
  | atsTimeout (die i : Nat)
  /-- ATS_INVALIDATE, R218. -/
  | atsInvalidate (part va logSize : Nat)
  /-- INVALIDATION_COMPLETION, R218. -/
  | invalidationCompletion (i : Nat)
  /-- TIME_SLICE_END, R250, R210. -/
  | timeSliceEnd (group : Nat)
  /-- PARTITION_RESUME, R250, R214. -/
  | partitionResume (group : Nat)
  /-- EVENT_DELIVERY, R257. -/
  | eventDelivery (iface vector : Nat) (stamp : BitVec 16)
  /-- DOORBELL, R263. -/
  | doorbell (iface : Nat) (tail : BitVec 32)
  /-- LOCKED_REGISTER_WRITE, R265. -/
  | lockedRegisterWrite (iface : Nat) (reg : LockedReg) (v : Word)
  /-- REGISTER_WRITE, R262. -/
  | registerWrite (iface : Nat) (acc : PageAccess)
  /-- START_INTERFACE, R266. -/
  | startInterface (iface : Nat)
  /-- STOP_INTERFACE, R265. -/
  | stopInterface (iface : Nat)
  /-- INTERFACE_RESET, R272. -/
  | interfaceReset (iface : Nat)
  /-- IDE_STREAM_INSECURE, R227. -/
  | ideStreamInsecure (iface : Nat)
  /-- MODPWR_WRITE, R274. -/
  | modpwrWrite (v : Word)
  /-- PWRLIM_WRITE, R45. -/
  | pwrlimWrite (core : Nat) (limit : BitVec 16)
  /-- POWER_STATE_WRITE, R273. -/
  | powerStateWrite (p : PowerState)
  /-- FUNDAMENTAL_RESET, R272. -/
  | fundamentalReset
  /-- BRING_UP, R271. -/
  | bringUp (feat : Word) (verified : Bool)
  /-- WATCHDOG_RESET, R259. -/
  | watchdogReset
  /-- CXL_MEM_READ, R261. -/
  | cxlMemRead (dpa len : Nat)
  /-- CXL_MEM_WRITE, R261. -/
  | cxlMemWrite (dpa : Nat) (bytes : List Byte)
  /-- SPDM_REQUEST, R245. -/
  | spdmRequest (block : Nat)
  /-- PEER_KEY_AGREEMENT, R246. -/
  | peerKeyAgreement (pkg txSlot rxSlot : Nat) (trusted : Bool)
  /-- FLIT_TAG_FAILURE, R227. -/
  | flitTagFailure (link : Nat)
  /-- UALINK_PORT_DOWN, R227. -/
  | ualinkPortDown (port : Nat)
  /-- FLOW_DELIVERY, R137. -/
  | flowDelivery (flow i : Nat)
  /-- LAYOUT_CHANGE, R259: the change enters its next journal state. -/
  | layoutChange (ch : LayoutChange)
  /-- PARTITION_STOP, R272. -/
  | partitionStop (part : Nat)
  /-- GRANULE_ENTRY_WRITE, R99. -/
  | granuleEntryWrite (granule : Nat) (w : BitVec 32)
  /-- KEY_SLOT_WRITE, R220. -/
  | keySlotWrite (slot : Nat) (w : KeyWrite)
  /-- FLOW_TABLE_WRITE, R268. -/
  | flowTableWrite (part pkg : Nat) (w : Word)
  /-- BANDWIDTH_WINDOW, R254. -/
  | bandwidthWindow (slice : Nat) (demand : List (Nat × Nat))
  /-- ROW_THROTTLE, R255. -/
  | rowThrottle (slice row slots : Nat)
  /-- COUNTER_SAMPLE, R244. -/
  | counterSample
  /-- ILLEGAL_ENCODING, R284. -/
  | illegalEncoding (w : Syllable) (l : Option Syllable)
  /-- LOCK_INTERFACE, R265. -/
  | lockInterface (iface : Nat)
  /-- IDE_KM, R227. -/
  | ideKm (keys : IdeKeys)
  /-- MIGRATION_DESCHEDULE, R256. -/
  | migrationDeschedule (iface : Nat)
  /-- INTERFACE_RESUME, R257. -/
  | interfaceResume (iface : Nat)
deriving DecidableEq, Repr

end Sys2Proof
end

