-- ==== Sys2Proof/WellFormed.lean ====
section
/-! DEFINITION. Which field values make a syllable an instruction (R278, R284, and the illegal-encoding
item of each reference entry), and the register destinations a syllable names (R25). -/

namespace Sys2Proof

/-- A register of one of the five files (R41). -/
inductive Reg where
  | g (r : BitVec 5)
  | v (r : BitVec 5)
  | p (r : BitVec 3)
  | m (r : BitVec 3)
  | q (r : BitVec 2)
deriving DecidableEq, Repr

/-- The control registers of R44, by number. -/
def isControl (c : BitVec 10) : Bool :=
  let n := c.toNat
  n ≤ 2 || (8 ≤ n && n ≤ 13) || n = 0x10 || n = 0x11 || (0x18 ≤ n && n ≤ 0x1C) ||
  (0x20 ≤ n && n ≤ 0x24) || (0x40 ≤ n && n ≤ 0x4F) || (0x80 ≤ n && n ≤ 0x83)

/-- An even register number. -/
def even5 (r : BitVec 5) : Bool := r.toNat % 2 = 0

/-- A register number that is a multiple of 4. -/
def quad5 (r : BitVec 5) : Bool := r.toNat % 4 = 0

/-- Scope codes 0 to 4 (R108). -/
def scopeOk (c : BitVec 3) : Bool := c.toNat ≤ 4

/-- A scope that must be 0 where ord is 0 (R296, R302). -/
def scopeOrd (c : BitVec 3) (o : BitVec 2) : Bool := scopeOk c && (o != 0 || c = 0)

/-- Space codes 0 to 5; 6 and 7 are reserved (R86). -/
def spaceOk (c : BitVec 3) : Bool := c.toNat ≤ 5

/-- A type code from `lo` to `hi` (R63). -/
def typeIn (lo hi : Nat) (t : BitVec 4) : Bool := lo ≤ t.toNat && t.toNat ≤ hi

/-- PG = 0 with PN = 1 is reserved (R275). -/
def Guard.ok (g : Guard) : Bool := g.pg != 0 || !g.pn

/-- The payloads that the extended syllable's entry accepts (R279, R358, R363). -/
def payloadOk : Instr → Bool
  | .shli _ _ _ _ x => x.all (fun l => l = 0)
  | .shri _ _ _ _ _ x => x.all (fun l => l = 0)
  | .trap _ _ _ x => x.all (fun l => l = 0)
  | _ => true

/-- The guard of a syllable; a LIMM and the events have none. -/
def Instr.guard : Instr → Guard
  | .add g .. | .and g .. | .andn g .. | .clz g .. | .addi g .. | .andi g .. | .ori g .. | .amo g .. | .cas g ..
  | .casl g .. | .bkpt g .. | .bra g .. | .call g .. | .cadv g .. | .cread g .. | .cwait g .. | .cget g ..
  | .cset g .. | .ckpt g .. | .cmp g .. | .cmpi g .. | .coll g .. | .cpy g .. | .cpyg g .. | .cpyx g ..
  | .decl g .. | .div g .. | .rem g .. | .max g .. | .min g .. | .mul g .. | .mulh g .. | .or g .. | .popc g ..
  | .xor g .. | .sub g .. | .shl g .. | .shr g .. | .shra g .. | .sel g .. | .shli g .. | .shri g ..
  | .endTask g | .fence g .. | .jr g .. | .ret g | .krot g .. | .ld g .. | .st g .. | .li g .. | .lih g ..
  | .loop g .. | .mcfg g .. | .mscl g .. | .mms g .. | .mdrn g .. | .wld g .. | .nop g | .plog g ..
  | .probe g .. | .red g .. | .rstr g .. | .scrub g .. | .sealOpen g .. | .absorb g .. | .sealClose g
  | .sfcfg g .. | .sfx g .. | .spawn g .. | .trap g .. | .tretn g | .waitn g .. | .vabs g .. | .vadd g ..
  | .vand g .. | .vbcast g .. | .vext g .. | .vcast g .. | .vcvt g .. | .vcbx g .. | .vclamp g .. | .vcmp g ..
  | .vfcmp g .. | .vdot g .. | .vfdot g .. | .vfadd g .. | .vfsub g .. | .vfmul g .. | .vfma g .. | .vfmin g ..
  | .vfmax g .. | .vgth g .. | .vlds g .. | .vsct g .. | .vins g .. | .vld g .. | .vst g .. | .vmad g ..
  | .vmul g .. | .vmulh g .. | .vmax g .. | .vmin g .. | .vor g .. | .vxor g .. | .vshl g .. | .vshr g ..
  | .vrshr g .. | .vsub g .. | .vperm g .. | .vslide g .. | .vpk5 g .. | .vupk5 g .. | .vred g ..
  | .vscan g .. | .vsel g .. => g
  | _ => Guard.always

/-- The field values that make a decoded syllable an instruction: registers of groups and pairs, types,
scopes, orders, spaces, conditions and functions, as each reference entry gives them. -/
def fieldsOk : Instr → Bool
  | .amo _ _ _ f c o _ => f.toNat ≤ 8 && scopeOrd c o
  | .cas _ r _ _ c o _ => even5 r && scopeOrd c o
  | .casl _ r _ _ _ c o _ => quad5 r && (c = 3 || c = 4) && (o = 2 || o = 3)
  | .red _ _ _ f c o z => (f.toNat ≤ 7 || (z && (f = 9 || f = 10))) && (o = 0 || o = 2) && scopeOrd c o
  | .cadv _ _ _ c o => scopeOk c && (o = 0 || o = 2)
  | .cread _ _ _ c o => scopeOrd c o && (o = 0 || o = 1)
  | .cwait _ _ _ c o => scopeOk c && (o = 0 || o = 1)
  | .fence _ c o => scopeOk c && o != 0
  | .cget _ c _ => isControl c
  | .cset _ c g x => isControl c && (x.isNone || g = 0)
  | .ckpt _ a _ => quad5 a
  | .cmp _ _ _ _ c z => c.toNat < 8 && z.toNat < 2
  | .cmpi _ _ _ _ c z => c.toNat < 8 && z.toNat < 2
  | .plog _ _ _ _ c => c.toNat < 8
  | .coll _ a _ _ t _ => quad5 a && t.toNat < 4
  | .cpy _ a b _ _ _ => quad5 a && even5 b
  | .cpyx _ a b _ _ _ => quad5 a && even5 b
  | .cpyg _ a b _ _ _ => quad5 a && even5 b && b != 0
  | .ld _ _ _ c _ _ => spaceOk c
  | .st _ _ _ c _ _ => spaceOk c
  | .vld _ r _ c t q _ => spaceOk c && (!q || (r.toNat < 4 && (t = 0 || t = 8)))
  | .vst _ r _ c t q _ => spaceOk c && (!q || (r.toNat < 4 && (t = 0 || t = 8)))
  | .vlds _ _ b c t => spaceOk c && typeIn 1 12 t && even5 b
  | .vgth _ r _ c t => spaceOk c && typeIn 1 12 t && even5 r
  | .vsct _ r _ c t => spaceOk c && typeIn 1 12 t && even5 r
  | .loop _ d _ _ => d != 0
  | .mms _ _ _ _ m => m.toNat < 16 && !(m.getLsbD 3 && m.getLsbD 2)
  | .probe _ _ _ _ q => q != 0
  | .rstr _ g => quad5 g
  | .scrub _ a _ _ => quad5 a
  | .sealOpen _ a _ => quad5 a
  | .absorb _ a b _ _ => quad5 a && even5 b
  | .spawn _ _ b => even5 b
  | .sfx _ _ _ _ f => f.toNat < 10
  | .vabs _ t _ _ _ => t = 1 || t = 3 || t = 5 || t = 7
  | .vadd _ t .. | .vsub _ t .. | .vmul _ t .. | .vmulh _ t .. | .vmad _ t .. | .vmax _ t .. | .vmin _ t ..
  | .vshl _ t .. | .vshr _ t .. | .vrshr _ t .. => typeIn 1 7 t
  | .vbcast _ t .. => typeIn 1 14 t
  | .vext _ t .. | .vins _ t .. | .vperm _ t .. => typeIn 1 12 t
  | .vcvt _ t _ _ e _ => typeIn 1 12 t && typeIn 1 12 e
  | .vclamp _ t _ _ b _ => typeIn 1 10 t && even5 b
  | .vcmp _ t _ a b _ => typeIn 1 7 t && even5 a && b.toNat < 6
  | .vfcmp _ t _ a b _ => typeIn 8 10 t && even5 a && b.toNat < 6
  | .vfadd _ t .. | .vfsub _ t .. | .vfmul _ t .. | .vfma _ t .. | .vfmin _ t .. | .vfmax _ t .. => typeIn 8 10 t
  | .vslide _ _ _ a _ _ => even5 a
  | .vred _ t _ _ b _ => typeIn 1 10 t && b.toNat < 3
  | .vscan _ t .. => typeIn 1 10 t
  | .vpk5 _ _ _ k => k.toNat < 5
  | .vupk5 _ _ _ k => k.toNat < 5
  | _ => true

/-- A decoded syllable is an instruction (R278, R284): its guard, its fields and its LIMM payload are legal. -/
def wellFormed (i : Instr) : Bool := i.guard.ok && fieldsOk i && payloadOk i

/-- The destination registers a syllable names, whatever its guard (R25): g0 and p0 count, and so do every
register of a CAS pair or CASL group and the g31 of CALL. -/
def Instr.dests : Instr → List Reg
  | .add _ d .. | .and _ d .. | .andn _ d .. | .clz _ d .. | .addi _ d .. | .andi _ d .. | .ori _ d .. | .div _ d ..
  | .rem _ d .. | .max _ d .. | .min _ d .. | .mul _ d .. | .mulh _ d .. | .or _ d .. | .popc _ d .. | .xor _ d ..
  | .sub _ d .. | .shl _ d .. | .shr _ d .. | .shra _ d .. | .sel _ d .. | .shli _ d .. | .shri _ d ..
  | .li _ d .. | .lih _ d .. | .loop _ d .. | .vext _ _ d .. => [.g d]
  | .amo _ r .. | .cread _ r .. | .ld _ r .. => [.g r]
  | .cas _ r _ q .. => [.g r, .g (r + 1), .p q]
  | .casl _ r _ q .. => [.g r, .g (r + 1), .g (r + 2), .g (r + 3), .p q]
  | .call .. => [.g 31]
  | .cget _ _ g => [.g g]
  | .cmp _ d .. | .cmpi _ d .. | .plog _ d .. => [.p d]
  | .probe _ a _ _ q => [.g a, .p q]
  | .vcmp _ _ m .. | .vfcmp _ _ m .. => [.m m]
  | .vgth _ r .. | .vlds _ r .. => [.v r]
  | .vld _ r _ _ _ q _ => if q then [.q (r.setWidth 2)] else [.v r]
  | .vabs _ _ d .. | .vadd _ _ d .. | .vand _ _ d .. | .vbcast _ _ d .. | .vcast _ _ d .. | .vcvt _ _ d ..
  | .vclamp _ _ d .. | .vfadd _ _ d .. | .vfsub _ _ d .. | .vfmul _ _ d .. | .vfma _ _ d .. | .vfmin _ _ d ..
  | .vfmax _ _ d .. | .vins _ _ d .. | .vmad _ _ d .. | .vmul _ _ d .. | .vmulh _ _ d .. | .vmax _ _ d ..
  | .vmin _ _ d .. | .vor _ _ d .. | .vxor _ _ d .. | .vshl _ _ d .. | .vshr _ _ d .. | .vrshr _ _ d ..
  | .vsub _ _ d .. | .vperm _ _ d .. | .vslide _ _ d .. | .vred _ _ d .. | .vscan _ _ d .. => [.v d]
  | .vcbx _ d .. | .vdot _ d .. | .vfdot _ d .. | .vpk5 _ d .. | .vupk5 _ d .. => [.v d]
  | .vsel _ _ d .. => [.v d]
  | _ => []

end Sys2Proof
end

