-- ==== Sys2Proof/Machine/State.lean ====
section
/-! DEFINITION. The state of the package as plain data, the reasons a step can stop, and the state at power-on. -/

namespace Sys2Proof.Machine

/-- A sparse table: numbered entries in rising order; what an unlisted number holds is said where it is read. -/
abbrev SMap (α : Type) := List (Nat × α)

/-- A memory: bytes at rising addresses, none equal to the 0 that an unlisted address reads as (log 5). -/
abbrev Mem := List Host.Cell

/-- Format tags are the type codes of R63. -/
abbrev Tag := BitVec 4

/-- Sensitivity (R56). Code 3 is never held. -/
inductive Sens where
  | pub | ten | seal
deriving DecidableEq, Repr

/-- Scopes (R108). -/
inductive Scope where
  | core | cluster | die | package | fabric
deriving DecidableEq, Repr

/-- Where an agent stands (R108): on a core, at die scope on a die (slice, Pump, Cistern), or outside the package
(the host, a fabric port). -/
inductive Agent where
  | core (c : Nat)
  | die (d : Nat)
  | outside
deriving DecidableEq, Repr

/-- The memories whose bytes are locations of the ordering model (R108). S space is held by bank address (R94). -/
inductive Place where
  | hbm
  | host
  | peer (pkg : Nat)
  | s (cluster : Nat)
deriving DecidableEq, Repr

/-- A counter by its home (R117): die and index, the bank address of an S word, or the DPA of a memory word. -/
inductive CtrKey where
  | cistern (die idx : Nat)
  | sword (cluster addr : Nat)
  | memory (place : Place) (addr : Nat)
deriving DecidableEq, Repr

/-- A context of the package. -/
structure Who where
  core : Nat
  ctx : Nat
deriving DecidableEq, Repr

/-- g register (R41). -/
structure GReg where
  val : Word
  sens : Sens
deriving DecidableEq, Repr

/-- v register (R41). -/
structure VReg where
  val : VWord
  fmt : Tag
  sens : Sens
deriving DecidableEq, Repr

/-- p register (R41). -/
structure PReg where
  val : Bool
  sens : Sens
deriving DecidableEq, Repr

/-- m register (R41). -/
structure MReg where
  val : QWord
  sens : Sens
deriving DecidableEq, Repr

/-- q register (R41). -/
structure QReg where
  val : QWord
  fmt : Tag
  sens : Sens
deriving DecidableEq, Repr

/-- An entry of a latch file (R18, R207): `rem` active cycles until it lands; `live` is V; `era` and `seq` give the
issue order of R23 and R201. -/
structure LatchEntry where
  dest : Reg
  val : VWord
  fmt : Tag
  sens : Sens
  flags : BitVec 7
  rem : Nat
  live : Bool
  era : Nat
  seq : Nat
deriving DecidableEq, Repr

/-- Line tags (R59). -/
structure LineTag where
  fmt : Tag
  sens : Sens
  layout : BitVec 2
deriving DecidableEq, Repr

/-- A pending report (R199). -/
structure Report where
  cause : BitVec 8
  val : Word
deriving DecidableEq, Repr

/-- A translation a context or engine waits for (R216): the 4 KiB page and whether it writes. -/
structure Miss where
  pasid : Nat
  page : Nat
  write : Bool
deriving DecidableEq, Repr

/-- The classes of outstanding operations (R36). -/
inductive Cls where
  | gl | gs | cp | mt | sf
deriving DecidableEq, Repr

/-- The five counts (R36). -/
structure Counts where
  gl : Nat
  gs : Nat
  cp : Nat
  mt : Nat
  sf : Nat
deriving DecidableEq, Repr

/-- Engine queues that can be full (R30). -/
inductive Queue where
  | array
  | channel (n : Nat)
  | sweep
deriving DecidableEq, Repr

/-- Why a context's next bundle cannot issue (R30), with what tells when the reason ends. -/
inductive Block where
  | cwait (key : CtrKey) (handle : Word) (target : Nat)
  | waitn (limits : List (Cls × Nat))
  | cap (cls : Cls) (need : Nat)
  | lines (keys : List (Place × Nat))
  | queue (q : Queue)
  | arrayOwned
  | shutter
  | asyncPass
  | scrub
  | translation (misses : List Miss)
deriving DecidableEq, Repr

/-- A store held by its context or under publication (R111, R112): its identity and phase, its bytes at their home, and the
page it was translated through (R218). -/
structure Store where
  id : Nat
  phase : Nat
  place : Place
  addr : Nat
  bytes : List Byte
  fmt : Tag
  sens : Sens
  page : Miss
deriving DecidableEq, Repr

/-- One write in the order in which writes were performed (R113), with the bytes it replaced: published at `scope` around
`agent`. -/
structure Write where
  id : Nat
  place : Place
  addr : Nat
  bytes : List Byte
  prev : List Byte
  scope : Scope
  agent : Agent
  owner : Option Who
deriving DecidableEq, Repr

/-- A release (R112): the writes it publishes and, for FENCE matching, its own write. -/
structure Release where
  id : Nat
  agent : Agent
  scope : Scope
  writes : List Nat
  own : Option Nat
deriving DecidableEq, Repr

/-- A publication under way (R112): the stores still to be performed. -/
structure Pub where
  id : Nat
  who : Who
  scope : Scope
  stores : List Store
  writes : List Nat
  fence : Bool
deriving DecidableEq, Repr

/-- A byte whose value a phase has fixed (R115): by the context's own store, or by a read and the write it returned. -/
structure PhaseByte where
  phase : Nat
  own : Bool
  place : Place
  addr : Nat
  id : Nat
  val : Byte
deriving DecidableEq, Repr

/-- A run of bytes that a load reads (R101): its home, its program address, its place in the result and the bytes already
fixed at issue by rules 1 and 2 of R115, each with the write it comes from. -/
structure LoadUnit where
  place : Place
  addr : Nat
  va : Nat
  len : Nat
  offset : Nat
  fixed : List (Option (Byte × Nat))
  page : Miss
deriving DecidableEq, Repr

/-- Variable-latency operations (R36), captured at issue. -/
inductive OpKind where
  | load (units : List LoadUnit) (dest : Reg) (fmt : Tag)
  | amo (place : Place) (addr : Nat) (wide : Bool) (fn : BitVec 4) (operand : Word) (dest : Reg)
  | cas (place : Place) (addr : Nat) (wide : Bool) (expected new : Word) (dest : BitVec 5) (pred : BitVec 3)
  | casl (place : Place) (addr : Nat) (wide : Bool) (expected new handle arg : Word) (onZero : Bool)
      (dest : BitVec 5) (pred : BitVec 3) (tenant : BitVec 13)
  | red (place : Place) (addr : Nat) (wide : Bool) (fn : BitVec 4) (operand : Word)
  | cread (key : CtrKey) (dest : Reg)
  | probe (dest : BitVec 5) (pred : BitVec 3) (slot : Nat) (hit : Bool)
  | fillWait (cluster table slot : Nat)
deriving DecidableEq, Repr

/-- What a performed operation sends back (R121): values for its destinations, a fault, the releases that its read
follows, and the writes it read. -/
structure OpResult where
  regs : List (Reg × VWord × Tag)
  fault : Option Report
  rels : List Nat
  seen : List (Place × Nat × Nat)
deriving DecidableEq, Repr

/-- An outstanding variable-latency operation with the phase it was issued in and its publication (R112, R116). `id` is its
place in the context's issue order, `born` the number its own write takes, `wait` the active cycles it must still pass
(R379). -/
structure VlOp where
  id : Nat
  era : Nat
  born : Nat
  kind : OpKind
  va : Nat
  sens : Sens
  ord : BitVec 2
  scope : Scope
  phase : Nat
  vis : List Nat
  pub : Option Nat
  rel : Option Nat
  result : Option OpResult
  dropped : List Reg
  wait : Nat
deriving DecidableEq, Repr

/-- The task a context holds (R179, R181, R190): what its END and its faults need. -/
structure TaskInfo where
  part : Nat
  cscope : Scope
  cv : Bool
  cdie : Nat
  cindex : Nat
  nest : Option (Nat × Nat × List Nat)
  taskAddr : Nat
deriving DecidableEq, Repr

/-- A completion counter with its increment (R118, R134). -/
structure Completion where
  key : CtrKey
  handle : Word
  incr : Nat
deriving DecidableEq, Repr

/-- Seal session (R231 to R237): captured operands, the bytes hashed in hashing order, the first failure, whether CLOSE or a
termination closes it, and the number of that closing. -/
structure Session where
  slot : BitVec 13
  model : BitVec 16
  metaBytes : List Byte
  metaSens : Sens
  record : Nat
  completion : Completion
  hashed : List Byte
  stopped : Bool
  failed : Option (BitVec 8)
  slotEdits : Nat
  refused : Bool
  ended : Option (BitVec 8)
  born : Nat
deriving DecidableEq, Repr

/-- Array configuration, scale store and sweep configuration (R146, R174). -/
structure ArrayCfg where
  afmt : BitVec 4
  dfmt : BitVec 4
  layout : BitVec 2
  cs : Vector (BitVec 16) 64
  rs : Vector (BitVec 16) 64
  scaleSens : Sens
  gelu : Bool
  smax : BitVec 16
deriving DecidableEq, Repr

/-- Where a launch came from (R178). -/
inductive Source where
  | continuation (slice addr : Nat)
  | spawn (who : Who)
  | host (iface : Nat)
  | hostNest (iface : Nat)
  | nest (serial : Nat) (tuple : List Nat)
deriving DecidableEq, Repr

/-- A task record (R179), by its fields. -/
structure TaskRec where
  cscope : Nat
  prio : Nat
  entry : Nat
  plen : Nat
  param : Nat
  pin : Bool
  cdie : Nat
  nwait : Nat
  cv : Bool
  av : Bool
  affinity : Nat
  cindex : Nat
  budget : Nat
  taskNo : Nat
  waits : List (Nat × Nat × Nat)
deriving DecidableEq, Repr

/-- A launch (R178, R181, R194) with its number: `rels` are the releases its starting acquire matches; `chosen` is the core that its
first Pump has chosen for it, with the record read (R182); `held` names the die whose pool share is full for it and when its holding
began (R193); `dest` is the die whose pool keeps a place for it, and `picked` numbers its choice of a core (R182). -/
structure Launch where
  id : Nat
  src : Source
  part : Nat
  handle : Word
  arg0 : Word
  arg1 : Word
  tenant : BitVec 13
  age : Nat
  rels : List Nat
  pub : Option Nat
  chosen : Option (Nat × TaskRec)
  held : Option (Nat × Nat)
  dest : Option Nat
  picked : Nat
deriving DecidableEq, Repr

/-- A task in a pool (R183), with its number among its Pump's launches (R44): waiting, or ready with its arrival stamp and scheduled cycles in the ready set. -/
structure PoolTask where
  serial : Nat
  number : Nat
  launch : Launch
  trec : TaskRec
  core : Nat
  base : Nat
  waits : List (Nat × Nat × Nat)
  rels : List Nat
  ready : Option (Nat × Nat)
deriving DecidableEq, Repr

/-- One hardware context (R17, R41 to R52). `starting` is the task whose parameter copy is under way
(R62, R183); `block` is the reason of R30 for which its next bundle does not issue, `also` are the
further ones, and `scrubs` that the bundle that blocked holds a SCRUB of the context's core (R348). `landed` are the registers in which a
result of the trapped code has landed while the trap handler runs (R23, R201). `logged` says that the fault log holds a terminated task,
whose seal session may still be closing (R236). -/
structure Ctx where
  task : Option TaskInfo
  starting : Option PoolTask
  pc : Word
  g : Vector GReg 32
  v : Vector VReg 32
  p : Vector PReg 8
  m : Vector MReg 8
  q : Vector QReg 4
  taskId : Word
  nestId : BitVec 16
  budget : Word
  acyc : Word
  frz : Word
  bankStall : Word
  flags : BitVec 7
  frm : BitVec 3
  priv : Bool
  ppriv : Bool
  tvec : Word
  trapPc : Word
  trapCause : BitVec 11
  trapVal : Word
  hashKey : Word
  kslot : BitVec 13
  age : BitVec 32
  sealState : BitVec 2
  sealLast : BitVec 2
  sealCause : BitVec 8
  sealBytes : BitVec 40
  latchSelW : BitVec 5
  latchSelE : BitVec 6
  counts : Counts
  latch : List LatchEntry
  latchBusy : Bool
  held : Option (List LatchEntry)
  landed : List Reg
  era : Nat
  seq : Nat
  ops : List VlOp
  reports : List Report
  startFault : Option Report
  bubbles : Nat
  block : Option Block
  also : List Block
  scrubs : Bool
  woken : Option (Word × Nat)
  ending : Option Nat
  terminating : Option (BitVec 8)
  logged : Bool
  cfg : ArrayCfg
  stores : List Store
  vis : List Nat
  phase : Nat
  phaseBytes : List PhaseByte
  seen : List (Place × Nat × Nat)
  seenRels : List Nat
  session : Option Session
deriving DecidableEq, Repr

/-- A plane and its record (R138): the 3,072 plane bytes in the order of its layout. -/
structure Plane where
  valid : Bool
  slot : Nat
  layout : BitVec 2
  data : List Byte
deriving DecidableEq, Repr

/-- The WLD in the Shutter (R149): cycles since issue, the bytes read so far, whether one of its reads has failed (R148), and the
configuration it captured in the form of R213. -/
structure Wld where
  ctx : Nat
  slot : Nat
  layout : BitVec 2
  age : Nat
  bytes : List Byte
  keyOk : Bool
  bad : Bool
  conf : Nat
deriving DecidableEq, Repr

/-- The captured operands of a pass (R144, R147). -/
structure PassArgs where
  xaddr : Nat
  stride : Nat
  rows : Nat
  y0 : Nat
  afmt : BitVec 4
  acc : Bool
  sw : Bool
  skip : Bool
deriving DecidableEq, Repr

/-- A row read and not yet written (R152, R212): its index, its 64 sums and the sensitivity of the X lines read. -/
structure RowSums where
  row : Nat
  sums : List Int
  sens : Sens
deriving DecidableEq, Repr

/-- A lock-step pass in flight (R152): the context that issued it, in its trap handler or not (R201), active cycles since its
issue, and the rows read and not yet written. -/
structure Pass where
  ctx : Nat
  priv : Bool
  args : PassArgs
  fwd : Bool
  age : Nat
  rows : List RowSums
deriving DecidableEq, Repr

/-- The captured operands of a drain (R147, R158). -/
structure DrainArgs where
  xaddr : Nat
  stride : Nat
  rows : Nat
  y0 : Nat
  shift : Int
  cfg : ArrayCfg
  frm : BitVec 3
deriving DecidableEq, Repr

/-- An asynchronous matrix command (R159, R160) with its progress in rows (R213); `prep` counts the cycles of a pass's swap and fill
that have passed (R155). -/
inductive ArrCmd where
  | wld (slot : Nat) (layout : BitVec 2)
  | pass (args : PassArgs) (prep next : Nat)
  | drain (args : DrainArgs) (next : Nat) (flags : BitVec 7)
deriving DecidableEq, Repr

/-- An entry of the array queue: its context, whether a CPYX chained it, its captured registers and fn5, and the captured FRM and
configuration in the form of R213. -/
structure ArrEntry where
  ctx : Nat
  chained : Bool
  regs : List Word
  fn : BitVec 5
  conf : Nat
  cmd : ArrCmd
deriving DecidableEq, Repr

/-- A copy's spaces, shape and lists (R164, R168). -/
structure CopyShape where
  srcSpace : Nat
  src : Nat
  dstSpace : Nat
  dst : Nat
  len : Nat
  n1 : Nat
  n2 : Nat
  fmt : Tag
  layout : BitVec 2
  ss1 : Int
  ss2 : Int
  ds1 : Int
  ds2 : Int
  gather : Option (Nat × Nat × Nat)
deriving DecidableEq, Repr

/-- What a copy has read and not yet written: the element of a CPYG whose index has been read, with that index (R168); the rest of the
source line of global memory read last, with its address and sensitivity (R101); the first bytes of the destination line under way with
their sensitivity (R89, R167), and the address of the first read that breaks the rule of sealed weights (R100); and the homes that those
bytes were read at (R218). -/
structure CopyGot where
  index : Option (Nat × Nat)
  line : Option (Nat × List Byte × Sens)
  bytes : List Byte
  sens : Sens
  broken : Option (Nat × Bool)
  homes : List (Place × Nat)
deriving DecidableEq, Repr

/-- A copy command in its channel (R164 to R169): the own stores and visible writes captured at issue give
R133; `ids` are its writes not yet published; `copied` says that only its chained command is still held (R314). -/
structure CopyCmd where
  id : Nat
  ctx : Nat
  shape : CopyShape
  nc : Bool
  completion : Option Completion
  regs : List Word
  fn : BitVec 5
  hashKey : Word
  own : List Store
  vis : List Nat
  chained : Option (ArrEntry × Word)
  absorb : Bool
  input : List Byte
  done : Nat
  ids : List Nat
  copied : Bool
  got : CopyGot
deriving DecidableEq, Repr

/-- A special-function command (R171), its captured configuration, the rows done, their flags and their writes. The row under way is
read and then written line by line (R89): `read` are the source bytes read so far with their sensitivity, and once all are `out` are the
result bytes left to write. -/
structure SweepCmd where
  ctx : Nat
  fn : Nat
  src : Nat
  srcS : Bool
  dst : Nat
  dstS : Bool
  elems : Nat
  rows : Nat
  stride : Nat
  ty : Tag
  completion : Option Completion
  regs : List Word
  hashKey : Word
  frm : BitVec 3
  gelu : Bool
  smax : BitVec 16
  next : Nat
  flags : BitVec 7
  ids : List Nat
  read : List Byte
  sens : Sens
  out : Option (List Byte)
deriving DecidableEq, Repr

/-- Crypto commands in flight (R230 to R242), each with its captured operands. -/
inductive MiscCmd where
  | scrub (ctx : Nat) (flags : BitVec 5) (addr len : Nat) (drop : Option (BitVec 13 × BitVec 13)) (completion : Completion)
      (born : Nat)
  | krot (ctx part : Nat) (slot : BitVec 13) (completion : Completion) (installed : Bool) (arrived : Nat) (taskId : Word)
  | ckpt (ctx : Nat) (list count image : Nat) (slot : BitVec 13) (model : Option (BitVec 13)) (tenant : BitVec 13)
      (vers : BitVec 16 × BitVec 16 × BitVec 16) (serial : Nat) (completion : Completion) (hashKey : Word) (own : List Store) (vis : List Nat) (born : Nat)
  | rstr (ctx : Nat) (image : Nat) (tenant : BitVec 13) (completion : Completion) (hashKey : Word) (own : List Store) (vis : List Nat) (born : Nat)
deriving DecidableEq, Repr

/-- One core (R9, R12, R32, R40): `last` is the context that issued last and `serving` the one that the core stands at. Of its next bundle,
`bankLost` says that it has lost a cycle to a pair of its own accesses and `bankTried` that it has lost one to another core; `clock` counts
its cycles, by which R96 ranks the cores of a cluster. -/
structure Core where
  ctxs : Vector Ctx 4
  last : Nat
  serving : Nat
  switching : Option (Nat × Nat)
  pwrlim : BitVec 16
  weights : List Nat
  icache : List (Nat × Nat)
  x : Mem
  y : Mem
  w : Mem
  xtags : SMap LineTag
  ytags : SMap LineTag
  xbad : List Nat
  ybad : List Nat
  wbad : List Nat
  active : Plane
  shadow : Plane
  shutter : Option Wld
  passes : List Pass
  queue : List ArrEntry
  chans : Vector (List CopyCmd) 4
  sweeps : List SweepCmd
  misc : List MiscCmd
  bankLost : Bool
  bankTried : Bool
  clock : Nat
deriving DecidableEq, Repr

/-- One cluster's S space (R93, R94, R251), by bank address, with the window register of each partition; `taken` are the banks that its
cores took of late: cycle, core and bank (R96). -/
structure Cluster where
  s : Mem
  stags : SMap LineTag
  sbad : List Nat
  windows : SMap Word
  taken : List (Nat × Nat × Nat)
deriving DecidableEq, Repr

/-- A counter's advances that are included in its value (R114, R118). -/
structure Counter where
  value : Nat
  rels : List Nat
deriving DecidableEq, Repr

/-- Who waits on a counter (R120, R183); `due` says that an advance has satisfied it, and it stays satisfied (R118). -/
inductive Waiter where
  | ctx (who : Who) (key : CtrKey) (target : Nat) (due : Bool)
  | task (serial : Nat) (key : CtrKey) (target : Nat) (due : Bool)
  | nest (serial : Nat) (key : CtrKey) (target : Nat) (due : Bool)
deriving DecidableEq, Repr

/-- A nest's record (R187). -/
structure NestRec where
  nestNo : Nat
  cindex : Nat
  cdie : Nat
  cv : Bool
  scope : Nat
  prio : Nat
  taskNo : Nat
  levels : List (Nat × Nat × Word)
  wsAddr : Nat
  wsn : Nat
  waits : List (Nat × Nat × Nat)
deriving DecidableEq, Repr

/-- A nest held by its Pump (R188, R190): waits left, staging done, with the ranges copied, the copy under way and the writes made so far (R191),
next tuple, tasks placed and not ended, the full share that its walker waits for, releases made by ended tasks. -/
structure Nest where
  serial : Nat
  launch : Launch
  addr : Nat
  nrec : NestRec
  waits : List (Nat × Nat × Nat)
  staged : Bool
  ranges : Nat
  copy : Option CopyCmd
  ids : List Nat
  next : Option (List Nat)
  live : List (List Nat)
  paused : Option (Nat × Nat)
  rels : List Nat
  taskRels : List (List Nat × Nat)
deriving DecidableEq, Repr

/-- An entry of a device translation cache (R215): a page of `2 ^ logSize` bytes. -/
structure DtcEntry where
  pasid : Nat
  va : Nat
  logSize : Nat
  dest : Dest
  writable : Bool
deriving DecidableEq, Repr

/-- Who waits for a translation (R217): a context's bundle, an engine command by its number, or a launch, a nest or a task that starts, by
its number. -/
inductive Asker where
  | slot (who : Who)
  | engine (who : Who) (born : Nat)
  | pump (key : Nat)
deriving DecidableEq, Repr

/-- An ATS request outstanding (R216): its page request sent, whether an invalidation superseded it (R218), and who waits for it. -/
structure AtsReq where
  miss : Miss
  pri : Bool
  stale : Bool
  askers : List Asker
deriving DecidableEq, Repr

/-- One die's Pump, Cistern, translation cache and ring (R12, R183, R215, R252): `denied` holds the denials that have not yet reached
everyone who asked (R217), `ringPos` is the ring's slot, `ringLast` the partition that
shared capacity served last at each ring stop, and `ringSent` the partition whose transfer each stop sent in the last slot. -/
structure Die where
  cistern : SMap Counter
  waiters : List Waiter
  inbox : List Launch
  handed : List PoolTask
  pool : List PoolTask
  nests : List Nest
  launches : Nat
  cycles : Nat
  dtc : List DtcEntry
  ats : List AtsReq
  denied : List (Miss × List Asker)
  invalidations : List (List DtcEntry)
  ring : SMap Byte
  ringPos : Nat
  ringLast : SMap Nat
  ringSent : SMap Nat
deriving DecidableEq, Repr

/-- An entry of a slice's Wellhead (R131): reserved, then launched in performance order. -/
structure WellEntry where
  launch : Launch
  onChip : Bool
deriving DecidableEq, Repr

/-- One slice (R131, R254, R255): launches held, the slots reserved by CASLs under way with whether each is on chip (R129), bands, slots charged to throttles and grants of the window, each as what the floor and what
the weighted share gives, and the interface that last activated each tracked row. -/
structure Slice where
  well : List WellEntry
  reserved : List (Who × Nat × Bool)
  bands : SMap Band
  charged : SMap (Nat × Nat)
  grants : SMap (Nat × Nat)
  tracked : SMap Nat
deriving DecidableEq, Repr

/-- A key slot (R220, R235, R240): `edits` counts descriptor changes (R236), and `flits` those sent under a link key (R246). -/
structure KeySlot where
  ty : BitVec 3
  part : BitVec 6
  ver : BitVec 16
  pver : BitVec 16
  pv : Bool
  alg : Bool
  sweep : Bool
  measurement : BitVec 384
  grants : List (BitVec 13)
  sessions : Nat
  images : Nat
  edits : Nat
  flits : Nat
deriving DecidableEq, Repr

/-- Metadata of an HBM line (R223): the slot and version whose key wrote it; its version bit is the version's parity. -/
structure LineKey where
  slot : BitVec 13
  ver : BitVec 16
deriving DecidableEq, Repr

/-- A virtual interface (R256, R257, R263, R265): `secure` is its IDE stream's state and `link` the link slots with
the stream's keys, out of the package and into it (R227); `pending` holds events with their stamps. -/
structure Iface where
  gen : BitVec 16
  part : BitVec 6
  st : BitVec 2
  tslot : BitVec 13
  defcore : BitVec 10
  tdi : BitVec 2
  lqbase : Word
  lqsize : BitVec 4
  lqtail : BitVec 32
  lqhead : BitVec 32
  lqheld : Option Launch
  stale : BitVec 32
  msix : SMap Word
  pending : List (Nat × BitVec 16)
  delivered : List Nat
  secure : Bool
  link : Option (Nat × Nat)
  doorbellVis : List Nat
deriving DecidableEq, Repr

/-- Layout journal (R259): the change, and the old descriptors of the partitions it names. -/
inductive Journal where
  | idle
  | preparing (ch : LayoutChange) (old : List (Nat × PartDesc))
  | prepared (ch : LayoutChange) (old : List (Nat × PartDesc))
  | committed (ch : LayoutChange) (old : List (Nat × PartDesc))
deriving DecidableEq, Repr

/-- What travels in a flow (R136): an operation that answers, a published store, a RED, a segment of a collective, a PROBE fill, or a
counter advance. -/
inductive FlowItem where
  | load (who : Who) (op : Nat)
  | store (pub : Nat) (store : Store)
  | red (who : Who) (op : Nat)
  | fill (cluster table born : Nat)
  | advance (rel : Nat)
  | coll (group inst rank ty op n : Nat) (bytes : List Byte)
deriving DecidableEq, Repr

/-- A flow (R136, R137): the next sequence number, the items not yet delivered and the numbers delivered. -/
structure Flow where
  unordered : Bool
  next : BitVec 32
  items : List (Nat × FlowItem)
  delivered : List Nat
deriving DecidableEq, Repr

/-- What a peer package sends to this one (R97, R125, R136): a load, a published store or a RED, with the DPA of its bytes, or the part of
one of its ranks in a collective. -/
inductive PeerItem where
  | load (addr len : Nat)
  | coll (part group rank ty op n sens : Nat) (bytes : List Byte)
  | store (addr : Nat) (bytes : List Byte)
  | red (addr : Nat) (wide : Bool) (fn : BitVec 4) (val : Word)
deriving DecidableEq, Repr

/-- The reorder buffer of a flow that ends in this package (R137): the lowest number not yet performed, the requests held with their
numbers and whether they carry a release, and the numbers above the lowest that are performed. -/
structure InFlow where
  unordered : Bool
  next : BitVec 32
  held : List (BitVec 32 × Bool × PeerItem)
  done : List (BitVec 32)
deriving DecidableEq, Repr

/-- One rank's part of a collective instance (R175 to R177): its operands, with the own stores and visible writes captured
at issue for a rank of this package; `bytes` are those read of its send buffer so far, or all that a rank of another package sends, with
the sensitivity of each, and `sent` the writes that the reads release (R135); `failed` says that its command stopped under R170; `done`
counts the receive bytes written, by the writes `ids`. -/
structure CollPart where
  rank : Nat
  who : Option Who
  op : Nat
  ty : Nat
  n : Nat
  bytes : List Byte
  senses : List Sens
  sent : List Nat
  send : Nat
  recv : Nat
  completion : Option Completion
  regs : List Word
  hashKey : Word
  own : List Store
  vis : List Nat
  born : Nat
  failed : Bool
  done : Nat
  ids : List Nat
deriving DecidableEq, Repr

/-- A collective instance (R177); `got` is set once its send buffers are read. -/
structure Coll where
  part : Nat
  group : Nat
  index : Nat
  size : Nat
  parts : List CollPart
  got : Bool
deriving DecidableEq, Repr

/-- An advance on its way to its home (R119); the numbers of its bundle begin at `first` (R24). -/
structure Advance where
  key : CtrKey
  handle : Word
  amount : Nat
  rel : Nat
  pub : Option Nat
  who : Option Who
  first : Nat
deriving DecidableEq, Repr

/-- A PROBE fill under way (R105), with its number. -/
structure Fill where
  born : Nat
  who : Who
  blk : Nat
  cluster : Nat
  table : Nat
  slot : Nat
  data : Nat
  hashKey : Word
  place : Place
  addr : Nat
  sens : Sens
deriving DecidableEq, Repr

/-- A pre-empted partition (R212 to R214): the cycle counts of the dies at its freeze, its cores, and its S windows with their tags, as saved; the writes to the windows
and the advances of their counters stay in order. -/
structure Saved where
  serial : Nat
  cycles : List Nat
  cores : List (Nat × Core)
  windows : List (Nat × Mem × SMap LineTag)
  hist : List Write
  ctrRels : List (CtrKey × List Nat)
deriving DecidableEq, Repr

/-- A time-share group (R250): members with their slices in microseconds, the member that runs, and the member that ran last. -/
structure Group where
  members : List (Nat × Nat)
  running : Option Nat
  turn : Nat
deriving DecidableEq, Repr

/-- Failures of the flit in transit on a UCIe link direction, whether the link is down, and the flits sent this boot (R227). -/
structure Link where
  failures : Nat
  down : Bool
  flits : Nat
deriving DecidableEq, Repr

/-- Entries of the management core's log (R103, R244, R261, R262). -/
inductive LogEntry where
  | correctable (unit addr : Nat)
  | cxlMem (dpa : Nat) (write : Bool)
  | page (iface offset : Nat)
  | throttle (slice iface slots : Nat)
  | resumeFailed (part : Nat)
  | refusedLayout (serial : Nat)
  | peerRefused (pkg : Nat)
deriving DecidableEq, Repr

/-- The outcome of the syllable being executed, for the bundle that holds it (log 2): `waits` is a TRETN that waits as a
bubble for its handler's latch file (R203). -/
inductive Verdict where
  | none
  | trapped (cause : BitVec 8) (val : Word)
  | blocked (why : Block)
  | waits
deriving DecidableEq, Repr

/-- A store to X or Y of the bundle being issued, which becomes visible after the bundle (R24, R90). -/
structure BufStore where
  transom : Bool
  yspace : Bool
  addr : Nat
  bytes : List Byte
  fmt : Tag
  sens : Sens
deriving DecidableEq, Repr

/-- The model's own record of the bundle being issued (log 2); `first` is the number that the first operation or write of the bundle takes. -/
structure Issue where
  core : Nat
  ctx : Nat
  first : Nat
  base : Word
  count : Nat
  idx : Nat
  word : Nat
  limm : Option Nat
  bufStores : List BufStore
  memStores : List Store
  target : Option Word
  ended : Bool
  chain : Option Instr
  chainWord : Nat
  chainIdx : Nat
  overlay : Option VReg
  opensWindow : Bool
  verdict : Verdict
deriving DecidableEq, Repr

/-- A move of one agent (log 1): a core cycle, an event of the table, or an act of the world outside. -/
inductive Move where
  | cycle (core : Nat)
  | occur (e : Instr)
  | hostStore (addr : Nat) (bytes : List Byte)
  | copySome (core ch steps : Nat)
  | hashSome (core ch bytes : Nat)
  | caslReserve (core ctx op : Nat)
  | sweepSome (core lines : Nat)
  | collSome (inst bytes : Nat)
  | stageSome (die nest steps : Nat)
  | lineFails (dpa : Nat)
  | flitPasses (link : Nat)
  | ringStep (die : Nat) (wanting : List (Nat × List Nat))
  | rowActivate (slice row iface : Nat)
  | millisecond
  | pfRead (offset : Nat)
  | partReport (part : Nat)
  | blockFails (stack level block : Nat)
  | openWindow (decoder base len : Nat)
  | closeWindow (decoder : Nat)
  | peerPolicy (part pkg : Nat) (accepted : Bool)
  | bufferFails (core space line : Nat)
  | peerGranule (pkg granule sens : Nat)
  | peerStore (place : Place) (addr : Nat) (bytes : List Byte)
  | peerArrives (pkg flow : Nat) (unordered : Bool) (seq : BitVec 32) (rel : Bool) (item : PeerItem)
  | peerDelivers (pkg flow i : Nat)
  | updateFirmware (image : Nat)
deriving DecidableEq, Repr

/-- The whole package. `badBlocks` are the counter blocks that fail their MAC, and `treeFresh` the lines that a whole write has replaced since
a block above them failed (R103, R225). `image` is the firmware that the management core starts from (R271), which stands outside every
reset. `peerLinks` are the link slots of the last agreement with a package, out and in (R246), and `wire` the last flit on each link (R222,
R227). -/
structure State where
  feat : Word
  featFixed : Bool
  localPool : Nat
  booted : Nat
  boots : Nat
  bootFailed : Option Nat
  measurements : SMap (BitVec 384)
  image : Nat
  modpwr : Nat
  pwrmeas : BitVec 12
  pwrLowered : Nat
  pwrMarked : Bool
  power : PowerState
  cores : SMap Core
  clusters : SMap Cluster
  dies : SMap Die
  slices : SMap Slice
  hbm : Mem
  host : Mem
  peer : SMap Mem
  peerSens : SMap (SMap Nat)
  badLines : List Nat
  badBlocks : List Nat
  hdm : SMap (Nat × Nat)
  lineKeys : SMap LineKey
  treeMinor : SMap Nat
  treeMajor : SMap Nat
  treeSpent : List Nat
  treeFresh : List Nat
  granules : SMap Word
  keys : SMap KeySlot
  parts : SMap PartDesc
  flowTables : SMap (SMap Word)
  preemptions : SMap Nat
  ifaces : SMap Iface
  groups : List Group
  saved : SMap Saved
  frozen : List Nat
  frozenAt : SMap (List Nat)
  journal : Journal
  perf : SMap Word
  perfSample : SMap Word
  log : List LogEntry
  links : SMap Link
  ports : List Nat
  flows : SMap Flow
  inFlows : SMap InFlow
  linkTrust : List Nat
  peerLinks : SMap (Nat × Nat)
  wire : SMap (List Byte × BitVec 64)
  policyRefuses : List (Nat × Nat)
  reply : List Byte
  colls : List Coll
  collIssued : SMap Nat
  fills : List Fill
  hist : List Write
  releases : List Release
  pubs : List Pub
  advances : List Advance
  ctrRels : List (CtrKey × List Nat)
  serial : Nat
  wall : Nat
  free : Nat
  focus : Nat
  issue : Issue
  agenda : List Move
deriving DecidableEq, Repr

/-- Reasons a step can stop. The Reris names none: every trap is a next state, and a failed power-on leaves a machine
that steps without effect, so no step raises this. -/
inductive Fault where
  /-- raised by nothing; safe. -/
  | halted
deriving DecidableEq, Repr

/-- Reasons a step is refused. -/
inductive Refusal where
  /-- an instruction whose meaning is not written yet, by mnemonic; raised by its arm of the dispatcher; safe: nothing can be
  proved of it. -/
  | notModelled (mnemonic : String)
deriving DecidableEq, Repr

def GReg.reset : GReg := ⟨0, .pub⟩
def VReg.reset : VReg := ⟨0, 0, .pub⟩
def PReg.reset : PReg := ⟨false, .pub⟩
def MReg.reset : MReg := ⟨0, .pub⟩
def QReg.reset : QReg := ⟨0, 0, .pub⟩
def CopyGot.empty : CopyGot := ⟨none, none, [], .pub, none, []⟩
def LineTag.reset : LineTag := ⟨0, .pub, 0⟩
def Counts.zero : Counts := ⟨0, 0, 0, 0, 0⟩
def Plane.reset : Plane := ⟨false, 0, 0, []⟩
def Counter.zero : Counter := ⟨0, []⟩

/-- The array and sweep configuration at task start (R146, R174). -/
def ArrayCfg.start : ArrayCfg :=
  { afmt := 1, dfmt := 8, layout := 1, cs := .replicate 64 0x3F80, rs := .replicate 64 0x3F80, scaleSens := .pub,
    gelu := false, smax := 0x3F80 }

/-- An idle context at power-on: the values of R44 and R61 where they give one, zero elsewhere (log 4). -/
def Ctx.reset : Ctx :=
  { task := none, starting := none, pc := 0, g := .replicate 32 .reset, v := .replicate 32 .reset, p := .replicate 8 .reset,
    m := .replicate 8 .reset, q := .replicate 4 .reset, taskId := 0, nestId := 0, budget := 0, acyc := 0, frz := 0,
    bankStall := 0, flags := 0, frm := 0, priv := false, ppriv := false, tvec := 0, trapPc := 0, trapCause := 0,
    trapVal := 0, hashKey := 0, kslot := 0, age := 4096, sealState := 0, sealLast := 0, sealCause := 0, sealBytes := 0,
    latchSelW := 0, latchSelE := 0, counts := .zero, latch := [], latchBusy := false, held := none, landed := [], era := 0, seq := 0,
    ops := [], reports := [], startFault := none, bubbles := 0, block := none, also := [], scrubs := false, woken := none, ending := none,
    terminating := none, logged := false, cfg := .start, stores := [], vis := [], phase := 0, phaseBytes := [], seen := [], seenRels := [],
    session := none }

/-- A core at power-on (R50, R138). -/
def Core.reset : Core :=
  { ctxs := .replicate 4 .reset, last := 0, serving := 0, switching := none, pwrlim := 0xFFFF, weights := [], icache := [], x := [],
    y := [], w := [], xtags := [], ytags := [], xbad := [], ybad := [], wbad := [], active := .reset, shadow := .reset,
    shutter := none, passes := [], queue := [], chans := .replicate 4 [], sweeps := [], misc := [], bankLost := false,
    bankTried := false, clock := 0 }

def Cluster.reset : Cluster := { s := [], stags := [], sbad := [], windows := [], taken := [] }

/-- A die at power-on; its ring table, the ring's first slot and the partition that shared capacity serves first are DESIGN CHOICE, log 84. -/
def Die.reset : Die :=
  { cistern := [], waiters := [], inbox := [], handed := [], pool := [], nests := [], launches := 0, cycles := 0, dtc := [], ats := [],
    denied := [], invalidations := [], ring := [], ringPos := 0, ringLast := [], ringSent := [] }

def Slice.reset : Slice := { well := [], reserved := [], bands := [], charged := [], grants := [], tracked := [] }

def KeySlot.reset : KeySlot :=
  { ty := 0, part := 0, ver := 0, pver := 0, pv := false, alg := false, sweep := false, measurement := 0, grants := [],
    sessions := 0, images := 0, edits := 0, flits := 0 }

/-- An interface at power-on. R263 gives no reset value of LQBASE, LQSIZE, LQTAIL or the MSI-X table, and no rule says whether its stream is
secure before any IDE_KM: zeros, an LQSIZE outside its range 4 to 12 among them, and secure (DESIGN CHOICE, log 90). -/
def Iface.reset : Iface :=
  { gen := 0, part := 0, st := 0, tslot := 0, defcore := 0, tdi := 0, lqbase := 0, lqsize := 0, lqtail := 0, lqhead := 0, lqheld := none,
    stale := 0, msix := [], pending := [], delivered := [], secure := true, link := none, doorbellVis := [] }

def Link.reset : Link := ⟨0, false, 0⟩

def Flow.reset : Flow := { unordered := false, next := 0, items := [], delivered := [] }

def Issue.reset : Issue :=
  { core := 0, ctx := 0, first := 0, base := 0, count := 0, idx := 0, word := 0, limm := none, bufStores := [], memStores := [], target := none,
    ended := false, chain := none, chainWord := 0, chainIdx := 0, overlay := none, opensWindow := false, verdict := .none }

/-- The package at power-on: a full QRX-2716 (R15, R271, R274) with nothing brought up, no partition and no task. -/
def State.reset : State :=
  { feat := 0x0000_0100_00FF_1FFF, featFixed := false, localPool := 64, booted := 0, boots := 0, bootFailed := none, measurements := [], image := 0, modpwr := 2200,
    pwrmeas := 0, pwrLowered := 0, pwrMarked := false, power := .d0, cores := [], clusters := [], dies := [], slices := [], hbm := [],
    host := [], peer := [], peerSens := [], badLines := [], badBlocks := [], hdm := [], lineKeys := [], treeMinor := [], treeMajor := [], treeSpent := [], treeFresh := [], granules := [], keys := [],
    parts := [], flowTables := [], preemptions := [], ifaces := [], groups := [], saved := [], frozen := [], frozenAt := [],
    journal := .idle, perf := [], perfSample := [], log := [], links := [], ports := [], flows := [], inFlows := [], linkTrust := [], peerLinks := [], wire := [], policyRefuses := [], reply := [],
    colls := [], collIssued := [], fills := [], hist := [], releases := [], pubs := [], advances := [], ctrRels := [],
    serial := 1, wall := 0, free := 0, focus := 0, issue := .reset, agenda := [] }

end Sys2Proof.Machine
end

