-- ==== Sys2Proof/Machine/Mem.lean ====
section
/-! DEFINITION. Sparse tables and memories: reading, writing, and the canonical form of a memory. -/

namespace Sys2Proof.Machine

/-- The entry of a table. -/
def SMap.find? {α : Type} : SMap α → Nat → Option α
  | [], _ => none
  | (a, v) :: t, k => if a = k then some v else SMap.find? t k

/-- The entry of a table, or what an unlisted number holds. -/
def SMap.get {α : Type} (m : SMap α) (d : α) (k : Nat) : α := (SMap.find? m k).getD d

/-- Write an entry, keeping the numbers in rising order. -/
def SMap.set {α : Type} : SMap α → Nat → α → SMap α
  | [], k, v => [(k, v)]
  | (a, w) :: t, k, v => if k < a then (k, v) :: (a, w) :: t else if a = k then (k, v) :: t else (a, w) :: SMap.set t k v

/-- Remove an entry. -/
def SMap.erase {α : Type} (m : SMap α) (k : Nat) : SMap α := m.filter (fun e => e.1 != k)

/-- The byte at an address; an unlisted address reads 0 (log 5). -/
def Mem.byte (m : Mem) (a : Nat) : Byte := SMap.get m 0 a

/-- Write one byte; writing 0 removes the entry, so equal memories are equal data. -/
def Mem.put : Mem → Nat → Byte → Mem
  | [], a, b => if b = 0 then [] else [(a, b)]
  | (k, v) :: t, a, b =>
    if a < k then (if b = 0 then (k, v) :: t else (a, b) :: (k, v) :: t)
    else if k = a then (if b = 0 then t else (a, b) :: t)
    else (k, v) :: Mem.put t a b

/-- The canonical form: addresses strictly rising, no entry 0. -/
def Mem.wf : Mem → Bool
  | [] => true
  | [(_, v)] => v != 0
  | (k, v) :: (k', v') :: t => v != 0 && k < k' && Mem.wf ((k', v') :: t)

/-- Read `n` bytes at rising addresses. -/
def Mem.bytes (m : Mem) (a : Nat) : Nat → List Byte
  | 0 => []
  | n + 1 => Mem.byte m a :: Mem.bytes m (a + 1) n

/-- Write bytes at rising addresses. -/
def Mem.putBytes (m : Mem) (a : Nat) : List Byte → Mem
  | [] => m
  | b :: bs => Mem.putBytes (Mem.put m a b) (a + 1) bs

/-- Zero every byte of a range. -/
def Mem.clear (m : Mem) (lo len : Nat) : Mem := m.filter (fun e => e.1 < lo || lo + len ≤ e.1)

/-- The number that bytes hold, lowest address first (R3). -/
def leNat : List Byte → Nat
  | [] => 0
  | b :: bs => b.toNat + 256 * leNat bs

/-- `n` bytes of a number, lowest first (R3). -/
def leBytes : Nat → Nat → List Byte
  | 0, _ => []
  | n + 1, v => BitVec.ofNat 8 v :: leBytes n (v / 256)

/-- Read a little-endian number (R3). -/
def Mem.num (m : Mem) (a n : Nat) : Nat := leNat (Mem.bytes m a n)

/-- Insert a number into a sorted list of numbers without repeats. -/
def insertNat (k : Nat) : List Nat → List Nat
  | [] => [k]
  | a :: t => if k < a then k :: a :: t else if a = k then a :: t else a :: insertNat k t

/-- Union of lists of numbers. -/
def unionNat (xs ys : List Nat) : List Nat := xs.foldl (fun acc x => insertNat x acc) ys

/-- Replace element i of a list. -/
def setAt {α : Type} (xs : List α) (i : Nat) (x : α) : List α := xs.set i x

/-- Remove element i of a list. -/
def removeAt {α : Type} (xs : List α) (i : Nat) : List α := xs.eraseIdx i

/-- Change the first element that a test accepts. -/
def modFirst {α : Type} (p : α → Bool) (f : α → α) : List α → List α
  | [] => []
  | x :: xs => if p x then f x :: xs else x :: modFirst p f xs

/-- Remove the first element that a test accepts. -/
def dropFirst {α : Type} (p : α → Bool) : List α → List α
  | [] => []
  | x :: xs => if p x then xs else x :: dropFirst p xs

end Sys2Proof.Machine
end

