-- ==== Sys2Proof/Machine/Ops.lean ====
section
/-! DEFINITION. The named operations over registers, latch files and control state, and taking and leaving a trap. -/

namespace Sys2Proof.Machine

/-- The outcome of a meaning. -/
abbrev Out := Host.Outcome State Fault Refusal

/-- Codes of R56. -/
def Sens.code : Sens → Nat
  | .pub => 0
  | .ten => 1
  | .seal => 2

/-- The higher sensitivity (R56). -/
def Sens.max (a b : Sens) : Sens := if a.code < b.code then b else a

/-- The lower sensitivity (R229). -/
def Sens.min (a b : Sens) : Sens := if a.code < b.code then a else b

/-- The sensitivity of a code; 3 is never held (R56). -/
def Sens.ofCode : Nat → Sens
  | 0 => .pub
  | 1 => .ten
  | _ => .seal

/-- Codes of R108. -/
def Scope.code : Scope → Nat
  | .core => 0
  | .cluster => 1
  | .die => 2
  | .package => 3
  | .fabric => 4

/-- The scope of a code 0 to 4 (R108). -/
def Scope.ofCode : Nat → Scope
  | 0 => .core
  | 1 => .cluster
  | 2 => .die
  | 3 => .package
  | _ => .fabric

/-- The narrower scope (R109). -/
def Scope.narrow (a b : Scope) : Scope := if a.code ≤ b.code then a else b

/-- The wider scope. -/
def Scope.widen (a b : Scope) : Scope := if a.code ≤ b.code then b else a

/-- Agent `b` stands within scope `sc` of agent `a` (R108): a slice, Pump or Cistern stands at die scope on its die. -/
def Agent.within (sc : Scope) (a b : Agent) : Bool :=
  match sc, a, b with
  | .fabric, _, _ => true
  | .package, _, _ => true
  | .die, .core x, .core y => x / 256 = y / 256
  | .die, .core x, .die y => x / 256 = y
  | .die, .die x, .core y => x = y / 256
  | .die, .die x, .die y => x = y
  | .cluster, .core x, .core y => x / 16 = y / 16
  | .core, .core x, .core y => x = y
  | _, _, _ => false

/-- Memory of another package. -/
def Place.isPeer : Place → Bool
  | .peer _ => true
  | _ => false

/-- S space. -/
def Place.isS : Place → Bool
  | .s _ => true
  | _ => false

/-- The widest sharing scope of a location (R109). -/
def Place.widest : Place → Scope
  | .s _ => .cluster
  | _ => .fabric

/-- The widest sharing scope of a counter (R109). -/
def CtrKey.widest : CtrKey → Scope
  | .sword _ _ => .cluster
  | _ => .package

/-! ### Reaching the parts of the state -/

def State.core (s : State) (c : Nat) : Core := s.cores.get Core.reset c
def State.setCore (s : State) (c : Nat) (k : Core) : State := { s with cores := s.cores.set c k }
def State.modCore (s : State) (c : Nat) (f : Core → Core) : State := s.setCore c (f (s.core c))

/-- The context of a core; the number is taken modulo 4 (R9). -/
def Core.ctx (k : Core) (x : Nat) : Ctx := k.ctxs[x % 4]'(Nat.mod_lt x (by decide))
def Core.setCtx (k : Core) (x : Nat) (c : Ctx) : Core :=
  { k with ctxs := k.ctxs.set (x % 4) c (Nat.mod_lt x (by decide)) }

def State.ctx (s : State) (w : Who) : Ctx := (s.core w.core).ctx w.ctx
def State.setCtx (s : State) (w : Who) (c : Ctx) : State := s.modCore w.core (fun k => k.setCtx w.ctx c)
def State.modCtx (s : State) (w : Who) (f : Ctx → Ctx) : State := s.setCtx w (f (s.ctx w))

/-- The context whose bundle is being issued. -/
def State.who (s : State) : Who := ⟨s.issue.core, s.issue.ctx⟩
def State.cur (s : State) : Ctx := s.ctx s.who
def State.modCur (s : State) (f : Ctx → Ctx) : State := s.modCtx s.who f

def State.cluster (s : State) (k : Nat) : Cluster := s.clusters.get Cluster.reset k
def State.modCluster (s : State) (k : Nat) (f : Cluster → Cluster) : State :=
  { s with clusters := s.clusters.set k (f (s.cluster k)) }
def State.die (s : State) (d : Nat) : Die := s.dies.get Die.reset d
def State.modDie (s : State) (d : Nat) (f : Die → Die) : State := { s with dies := s.dies.set d (f (s.die d)) }
def State.slice (s : State) (j : Nat) : Slice := s.slices.get Slice.reset j
def State.modSlice (s : State) (j : Nat) (f : Slice → Slice) : State :=
  { s with slices := s.slices.set j (f (s.slice j)) }
def State.key (s : State) (k : Nat) : KeySlot := s.keys.get KeySlot.reset k
def State.modKey (s : State) (k : Nat) (f : KeySlot → KeySlot) : State := { s with keys := s.keys.set k (f (s.key k)) }
def State.part (s : State) (p : Nat) : PartDesc := s.parts.get PartDesc.none p
def State.iface (s : State) (i : Nat) : Iface := s.ifaces.get Iface.reset i
/-- There are 256 virtual interfaces (R12, R256); a number beyond them names none. -/
def State.modIface (s : State) (i : Nat) (f : Iface → Iface) : State :=
  if i < 256 then { s with ifaces := s.ifaces.set i (f (s.iface i)) } else s

/-- The management core's firmware runs (R271): no key slot, granule, flow, layout or limit is written before. -/
def State.managed (s : State) : Bool := s.booted = 5

/-- The partition of a context's task. -/
def Ctx.part (c : Ctx) : Nat := (c.task.map TaskInfo.part).getD 0

/-- Add to performance counter n of a partition (R264). -/
def State.perfAdd (s : State) (p n k : Nat) : State :=
  { s with perf := s.perf.set (p * 32 + n) (s.perf.get 0 (p * 32 + n) + BitVec.ofNat 64 k) }

/-- The partition that holds a core and runs on it, or ends its tasks there. -/
def State.corePart (s : State) (core : Nat) : Nat :=
  ((List.find? (fun (d : Nat × PartDesc) => (d.2.state = .running || d.2.state = .stopping) && d.2.cores.contains core) s.parts).map Prod.fst).getD 0

/-- Add to performance counter n of a context's partition (R264): that of its task, or of its core once that has retired. -/
def State.perfWho (s : State) (w : Who) (n k : Nat) : State :=
  s.perfAdd (((s.ctx w).task.map TaskInfo.part).getD (s.corePart w.core)) n k

/-- A fresh number for a write, a release, a publication or a launch. -/
def State.fresh (s : State) : Nat × State := (s.serial, { s with serial := s.serial + 1 })

/-- One of `n` candidates, where the spec allows any (R115): a free choice; with one candidate nothing is drawn. -/
def State.choose (s : State) (n : Nat) : Nat × State :=
  if n ≤ 1 then (0, s) else (Config.freeChoice s.free % n, { s with free := s.free + 1 })

/-! ### Present units (R15, R16, R270) -/

def State.diePresent (s : State) (d : Nat) : Bool := d < 4 && s.feat.getLsbD d
def State.dieCount (s : State) : Nat := ((List.range 4).filter s.diePresent).length
def State.portPresent (s : State) (k : Nat) : Bool := k < 8 && s.feat.getLsbD (4 + k)
def State.sealPresent (s : State) : Bool := s.feat.getLsbD 12

/-! ### Registers (R41) -/

/-- g0 reads zero with PUB. -/
def Ctx.readG (c : Ctx) (r : BitVec 5) : GReg := if r = 0 then GReg.reset else c.g[r.toNat]'r.isLt
/-- p0 reads 1 with PUB. -/
def Ctx.readP (c : Ctx) (r : BitVec 3) : PReg := if r = 0 then ⟨true, .pub⟩ else c.p[r.toNat]'r.isLt
def Ctx.readM (c : Ctx) (r : BitVec 3) : MReg := c.m[r.toNat]'r.isLt
def Ctx.readQ (c : Ctx) (r : BitVec 2) : QReg := c.q[r.toNat]'r.isLt
/-- A v register as it stands in the file; a forwarding window is seen by State.readV. -/
def Ctx.fileV (c : Ctx) (r : BitVec 5) : VReg := c.v[r.toNat]'r.isLt

/-- Write a register; g0 and p0 ignore writes. -/
def Ctx.writeReg (c : Ctx) (d : Reg) (val : VWord) (fmt : Tag) (sens : Sens) : Ctx :=
  match d with
  | .g r => if r = 0 then c else { c with g := c.g.set r.toNat ⟨val.setWidth 64, sens⟩ r.isLt }
  | .v r => { c with v := c.v.set r.toNat ⟨val, fmt, sens⟩ r.isLt }
  | .p r => if r = 0 then c else { c with p := c.p.set r.toNat ⟨val.getLsbD 0, sens⟩ r.isLt }
  | .m r => { c with m := c.m.set r.toNat ⟨val.setWidth 256, sens⟩ r.isLt }
  | .q r => { c with q := c.q.set r.toNat ⟨val.setWidth 256, fmt, sens⟩ r.isLt }

def Ctx.gv (c : Ctx) (r : BitVec 5) : Word := (c.readG r).val
def Ctx.gs (c : Ctx) (r : BitVec 5) : Sens := (c.readG r).sens
def State.gw (s : State) (r : BitVec 5) : Word := s.cur.gv r
def State.gsens (s : State) (r : BitVec 5) : Sens := s.cur.gs r

/-- A guard holds when the predicate reads 1 and PN is 0, or reads 0 and PN is 1 (R28). -/
def Ctx.guardTrue (c : Ctx) (gd : Guard) : Bool := (c.readP gd.pg).val != gd.pn

/-- A syllable whose guard is false has no effect (R28). -/
def State.guarded (s : State) (gd : Guard) (f : State → Out) : Out := if s.cur.guardTrue gd then f s else .next s

/-! ### The latch file (R18, R21, R23) -/

/-- Place a result in the latch file, to land `l` active cycles after the one that issues it. In a trap handler it is discarded where a
result of the trapped code, which counts as issued later, has landed already (R23, R201). -/
def Ctx.push (c : Ctx) (l : Nat) (d : Reg) (val : VWord) (fmt : Tag) (sens : Sens) (flags : BitVec 7) : Ctx :=
  { c with
    latch := c.latch ++ [{ dest := d, val, fmt, sens, flags, rem := l, live := !c.landed.contains d, era := c.era, seq := c.seq }]
    seq := c.seq + 1 }

/-- Issued before: the order of R23 and R201. -/
def earlier (era seq era' seq' : Nat) : Bool := era < era' || (era = era' && seq < seq')

/-- Destinations of a variable-latency operation. -/
def OpKind.dests : OpKind → List Reg
  | .load _ d _ => [d]
  | .amo _ _ _ _ _ d => [d]
  | .cas _ _ _ _ _ d p => [.g d, .p p]
  | .casl _ _ _ _ _ _ _ _ d p _ => [.g d, .p p]
  | .cread _ d => [d]
  | .probe d p _ _ => [.g d, .p p]
  | .red .. => []
  | .fillWait .. => []

/-- A write to `d` of the given place in the issue order has landed: writes to it that were issued before are
discarded (R23). -/
def Ctx.discardOlder (c : Ctx) (d : Reg) (era seq : Nat) : Ctx :=
  let kill (e : LatchEntry) : LatchEntry :=
    if e.dest = d && earlier e.era e.seq era seq then { e with live := false } else e
  { c with
    latch := c.latch.map kill
    held := c.held.map (fun h => h.map kill)
    ops := c.ops.map (fun o =>
      if o.kind.dests.contains d && earlier o.era o.id era seq then { o with dropped := d :: o.dropped } else o) }

/-- An entry lands: its register and its flags (R46), unless it was discarded. -/
def Ctx.land (c : Ctx) (e : LatchEntry) : Ctx :=
  if e.live then
    let c := c.writeReg e.dest e.val e.fmt e.sens
    ({ c with flags := c.flags ||| e.flags }).discardOlder e.dest e.era e.seq
  else c

/-- The entries whose cycles have passed land in issue order and leave the latch file (R18, R23). -/
def Ctx.landDue (c : Ctx) : Ctx :=
  let due := c.latch.filter (fun e => e.rem = 0)
  due.foldl Ctx.land { c with latch := c.latch.filter (fun e => e.rem != 0) }

/-- One active cycle passes for the latch file (R18, R20). -/
def Ctx.tickLatch (c : Ctx) : Ctx :=
  let c := { c with latchBusy := !c.latch.isEmpty, latch := c.latch.map (fun (e : LatchEntry) => { e with rem := e.rem - 1 })
                    ops := c.ops.map (fun (o : VlOp) => if o.era ≤ c.era then { o with wait := o.wait - 1 } else o) }
  c.landDue

/-- A fixed-latency result to a g register. -/
def State.pushG (s : State) (l : Nat) (d : BitVec 5) (v : Word) (sens : Sens) : State :=
  s.modCur (fun c => c.push l (.g d) (v.setWidth 2048) 0 sens 0)

/-- A fixed-latency result to a predicate. -/
def State.pushP (s : State) (l : Nat) (d : BitVec 3) (v : Bool) (sens : Sens) : State :=
  s.modCur (fun c => c.push l (.p d) (BitVec.ofNat 2048 v.toNat) 0 sens 0)

/-- Every reason for which a context's next bundle does not issue. -/
def Ctx.blocks (c : Ctx) : List Block :=
  match c.block with
  | none => []
  | some b => b :: c.also

/-! ### Counts (R36) -/

def Counts.get (c : Counts) : Cls → Nat
  | .gl => c.gl
  | .gs => c.gs
  | .cp => c.cp
  | .mt => c.mt
  | .sf => c.sf

def Counts.set (c : Counts) (k : Cls) (n : Nat) : Counts :=
  match k with
  | .gl => { c with gl := n }
  | .gs => { c with gs := n }
  | .cp => { c with cp := n }
  | .mt => { c with mt := n }
  | .sf => { c with sf := n }

/-- The caps of R36. -/
def Cls.cap : Cls → Nat
  | .gl => 48
  | .gs => 48
  | .cp => 32
  | .mt => 16
  | .sf => 16

def Ctx.bump (c : Ctx) (k : Cls) (n : Nat) : Ctx := { c with counts := c.counts.set k (c.counts.get k + n) }
def Ctx.drop (c : Ctx) (k : Cls) (n : Nat) : Ctx := { c with counts := c.counts.set k (c.counts.get k - n) }

/-- All five counts are zero. -/
def Counts.allZero (c : Counts) : Bool := c = Counts.zero

/-! ### Traps (R200 to R204) -/

/-- Waiters of a context leave every list (R120, R204, R210). -/
def State.removeWaiters (s : State) (w : Who) : State :=
  { s with dies := s.dies.map (fun d => (d.1, { d.2 with waiters := d.2.waiters.filter (fun x =>
      match x with
      | .ctx w' _ _ _ => w' != w
      | _ => true) })) }

/-- A task's termination begins (R204): latch files, reports, unpublished stores and waiters go; the rest runs on.
An open seal session closes as if CLOSE had issued (R236), but counts in no class: its record is not ordered against the task's entry in
the fault log (R418). -/
def State.terminate (s : State) (w : Who) (cause : BitVec 8) : State :=
  let (born, s) := s.fresh
  (s.removeWaiters w).modCtx w (fun c =>
    { c with
      latch := [], held := none, landed := [], reports := [], startFault := none, stores := [], block := none, scrubs := false
      woken := none, ending := none, bubbles := 0
      terminating := some (c.terminating.getD cause)
      session := c.session.map (fun z =>
        if c.sealState = 1 then { z with ended := some cause, born := born } else z)
      sealState := if c.sealState = 1 then 2 else c.sealState })

/-- The trapped code's entries count as issued after every write of the handler (R201). -/
def Ctx.ageForHandler (c : Ctx) : Ctx :=
  { c with
    latch := c.latch.map (fun e => if e.era = c.era then { e with era := e.era + 1 } else e)
    ops := c.ops.map (fun o => if o.era = c.era then { o with era := o.era + 1 } else o) }

/-- Taking a trap (R200): cause, syllable, value. In supervisor mode it terminates the task (R202). -/
def State.takeTrap (s : State) (w : Who) (cause : BitVec 8) (syl : BitVec 3) (val : Word) : State :=
  if (s.ctx w).priv then s.terminate w cause
  else
    (s.perfWho w 26 1).modCtx w (fun c =>
      let c := c.ageForHandler
      { c with
        held := some c.latch, latch := [], landed := []
        trapPc := c.pc, trapVal := val
        trapCause := syl ++ cause
        ppriv := c.priv, priv := true, latchBusy := false
        pc := c.tvec
        block := none, scrubs := false, woken := none, ending := none })

/-- The return of R203: the held latch file comes back, task mode returns, and the pc is TRAPPC. -/
def Ctx.trapReturn (c : Ctx) : Ctx :=
  { c with latch := c.held.getD [], held := none, landed := [], latchBusy := false, priv := c.ppriv, pc := c.trapPc, era := c.era + 1 }

/-- The issuing syllable raises a trap: the bundle does not issue, and the trap is taken (R26, R198, R200). -/
def State.raise (s : State) (cause : BitVec 8) (val : Word) : Out :=
  let t := s.takeTrap s.who cause (BitVec.ofNat 3 s.issue.idx) val
  .next { t with issue := { t.issue with verdict := .trapped cause val } }

/-- A trap of the bundle that names another of its syllables (R313). -/
def State.raiseAt (s : State) (idx : Nat) (cause : BitVec 8) (val : Word) : Out :=
  ({ s with issue := { s.issue with idx := idx } }).raise cause val

/-- The issuing syllable meets a block condition: the bundle does not issue (R30). -/
def State.blockOn (s : State) (why : Block) : Out :=
  let t := s.modCur (fun c => { c with block := some why })
  .next { t with issue := { t.issue with verdict := .blocked why } }

/-- A pending report of a context (R199). -/
def State.report (s : State) (w : Who) (cause : BitVec 8) (val : Word) : State :=
  s.modCtx w (fun c => if c.terminating.isSome then c else { c with reports := c.reports ++ [⟨cause, val⟩] })

/-- The core stands still for a partition that is being pre-empted (R210). -/
def State.coreFrozen (s : State) (core : Nat) : Bool := s.frozen.any (fun p => (s.part p).cores.contains core)

/-- The core's next bundle has lost no cycle at the banks yet (R96). -/
def Core.bankFresh (k : Core) : Core := { k with bankLost := false, bankTried := false }

/-- What a core's clock drives happens while the core is not frozen (R210). -/
def State.onClock (s : State) (core : Nat) (f : State → Out) : Out := if s.coreFrozen core then .next s else f s

/-- The word of the issuing syllable, zero-extended (R197). -/
def State.sylWord (s : State) : Word := BitVec.ofNat 64 s.issue.word

/-- A privileged syllable in task mode raises cause 0x03 with the syllable (R47, R197). -/
def State.privileged (s : State) (f : State → Out) : Out := if s.cur.priv then f s else s.raise 0x03 s.sylWord

/-- A command that would raise a count above its cap blocks (R36). -/
def State.roomFor (s : State) (k : Cls) (n : Nat) (f : State → Out) : Out :=
  if k.cap < s.cur.counts.get k + n then s.blockOn (.cap k n) else f s

/-! ### The forwarding window (R156) -/

/-- The active cycle after issue in which the window of a pass closes. -/
def Pass.last (p : Pass) : Nat := 5 + p.args.sw.toNat + p.args.rows

/-- The read cycle of the last row, E, counted from the issue (R152). -/
def Pass.readEnd (p : Pass) : Nat := p.args.sw.toNat + p.args.rows

/-- A pass advances in an active cycle of its context (R34); the cycles of a trap handler are frozen for the passes of the
trapped code (R201). -/
def Pass.advancesIn (p : Pass) (x : Nat) (priv : Bool) : Bool := p.ctx = x % 4 && (p.priv || !priv)

/-- The pass of a context whose forwarding window is open; none while its handler runs. -/
def Core.window (k : Core) (x : Nat) : Option Pass :=
  if (k.ctx x).priv then none else k.passes.find? (fun p => p.ctx = x % 4 && p.fwd && p.age ≤ p.last)

/-- A v register as a syllable reads it: in an open window v31 is the Transom row, or misuse in a cycle without one. -/
def State.readV (s : State) (r : BitVec 5) : Option VReg :=
  if r = 31 && (((s.core s.issue.core).window s.issue.ctx).isSome || s.issue.opensWindow) then s.issue.overlay
  else some (s.cur.fileV r)

/-- A write to v31 while a window is open is misuse (R156). -/
def State.v31Busy (s : State) (d : BitVec 5) : Bool :=
  d = 31 && (((s.core s.issue.core).window s.issue.ctx).isSome || s.issue.opensWindow)

/-- A fixed-latency result to a v register. -/
def State.pushV (s : State) (l : Nat) (d : BitVec 5) (v : VWord) (fmt : Tag) (sens : Sens) (flags : BitVec 7) : State :=
  s.modCur (fun c => c.push l (.v d) v fmt sens flags)

end Sys2Proof.Machine
end

