-- ==== Sys2Proof/Machine/Translate.lean ====
section
/-! DEFINITION. Addresses: the S-space hash, home slices, granules, the device translation cache and the checks made
when an access translates. -/

namespace Sys2Proof.Machine

/-- The cluster of a core, counted over the package (R9). -/
def clusterOf (core : Nat) : Nat := core / 16
/-- The die of a core (R9). -/
def dieOf (core : Nat) : Nat := core / 256

/-- Bits of a number. -/
def bitsOf (w lo n : Nat) : Nat := w / 2 ^ lo % 2 ^ n

/-- The window register of a partition in a core's cluster (R251): base and size in bytes, size 0 where not assigned. -/
def State.window (s : State) (core part : Nat) : Nat × Nat :=
  let w := ((s.cluster (clusterOf core)).windows.get 0 part).toNat
  if bitsOf w 15 1 = 1 then (bitsOf w 0 5 * 131072, bitsOf w 8 6 * 131072) else (0, 0)

/-- The bank address of a window-adjusted S address under a HASHKEY (R94): bank, row and byte. -/
def sHash (k : Word) (a : Nat) : Nat :=
  let line := a / 256 % 16384
  let row := line / 32
  let t := row ^^^ bitsOf k.toNat 0 9
  let u := t * (2 * bitsOf k.toNat 9 12 + 1) % 512
  let h := (u % 32) ^^^ (u / 32)
  let bank := (line % 32) ^^^ h
  bank * 131072 + row * 256 + a % 256

/-- The bank of a bank address. -/
def sBank (phys : Nat) : Nat := phys / 131072

/-- The bank address of S address `a` of a program on a core (R93, R94). -/
def State.sPhys (s : State) (core part : Nat) (key : Word) (a : Nat) : Nat :=
  sHash key ((s.window core part).1 + a)

/-- The home slice of a DPA (R98). -/
def State.sliceOf (s : State) (dpa : Nat) : Nat :=
  let g := 1073741824
  let nd := s.dieCount
  let l0 := s.localPool * g
  if dpa < nd * l0 then
    let d := dpa / l0
    let l := (dpa - d * l0) / 64
    32 * d + (bitsOf l 0 5 ^^^ bitsOf l 5 5 ^^^ bitsOf l 10 5 ^^^ bitsOf l 15 5)
  else
    let l := (dpa - nd * l0) / 64
    if nd = 3 then
      let q := l / 3
      32 * (l % 3) + (bitsOf q 0 5 ^^^ bitsOf q 5 5 ^^^ bitsOf q 10 5 ^^^ bitsOf q 15 5 ^^^ bitsOf q 20 5)
    else
      (bitsOf l 0 7 ^^^ bitsOf l 7 7 ^^^ bitsOf l 14 7 ^^^ bitsOf l 21 7) % (32 * nd)

/-- The die of a slice (R11). -/
def sliceDie (j : Nat) : Nat := j / 32

/-- The granule attribute entry of a DPA (R99). -/
def State.granule (s : State) (dpa : Nat) : Nat := (s.granules.get 0 (dpa / 65536)).toNat
def granuleKey (g : Nat) : Nat := bitsOf g 16 13
def granulePart (g : Nat) : Nat := bitsOf g 8 6
def granuleSW (g : Nat) : Bool := bitsOf g 3 1 = 1
/-- V = 1, and SENS is not 3, which makes the granule unassigned (R99). -/
def granuleV (g : Nat) : Bool := bitsOf g 2 1 = 1 && bitsOf g 0 2 != 3
def granuleSens (g : Nat) : Sens := Sens.ofCode (bitsOf g 0 2)

/-- The sensitivity of a page (R57, R100): HBM by granule, host memory PUB, a peer's memory by the peer's granule
under an agreed link key. -/
def State.pageSens (s : State) (p : Place) (a : Nat) : Sens :=
  match p with
  | .hbm => granuleSens (s.granule a)
  | .peer k => if s.linkTrust.contains k then Sens.ofCode ((s.peerSens.get [] k).get 0 (a / 65536)) else .pub
  | .host => .pub
  | .s _ => .pub

/-- An entry of a partition's flow table (R268). -/
def State.flowEntry (s : State) (part pkg : Nat) : Nat := ((s.flowTables.get [] part).get 0 pkg).toNat

/-- A link key is not due for replacement: no move sends as many as 1,024 flits under one (R246; log 74). -/
def State.keyFresh (s : State) (slot : Nat) : Bool := (s.key slot).flits + 1024 ≤ 2 ^ 40

/-- Flows to a package exist, through a port that is not down and under link keys that are not due for replacement: the one that the flow
table names, and the one under which the package answers (R227, R246, R268). -/
def State.flowOpen (s : State) (part pkg : Nat) : Bool :=
  let w := s.flowEntry part pkg
  bitsOf w 63 1 = 1 && !(s.ports.contains (bitsOf w 59 3)) && s.keyFresh (bitsOf w 32 13) && s.keyFresh (s.peerLinks.get (0, 0) pkg).2

/-- The outcome of looking an address up (R215). -/
inductive Lookup where
  | hit (place : Place) (addr : Nat)
  | miss (m : Miss)
  | denied
deriving DecidableEq, Repr

/-- A page of the cache holds an address for a PASID. -/
def DtcEntry.covers (e : DtcEntry) (pasid va : Nat) : Bool :=
  e.pasid = pasid && e.va ≤ va && va < e.va + 2 ^ e.logSize

/-- The destination of an address in a cached page (R97). -/
def DtcEntry.place (e : DtcEntry) (va : Nat) : Place × Nat :=
  match e.dest with
  | .hbm d => (.hbm, d + (va - e.va))
  | .peer k a => (.peer k, a + (va - e.va))
  | .host a => (.host, a + (va - e.va))

/-- A denial of a page still waits for an asker of a PASID (R217). -/
def Die.denies (d : Die) (ask : Asker) (pasid page : Nat) : Bool :=
  d.denied.any (fun e => e.1.pasid = pasid && e.1.page = page && e.2.contains ask)

/-- The translation of a virtual address on a die for one who asks (R97, R215, R217). The PASID is the partition's number (log 10). -/
def State.lookup (s : State) (ask : Asker) (die part va : Nat) (write : Bool) : Lookup :=
  let d := s.die die
  let m : Miss := ⟨part, va / 4096, write⟩
  match d.dtc.find? (fun e => e.covers part va && (e.writable || !write)) with
  | some e =>
    (match e.place va with
    | (.peer k, a) => if s.flowOpen part k then .hit (.peer k) a else .denied
    | (p, a) => .hit p a)
  | none => if d.denies ask part (va / 4096) then .denied else .miss m

/-- The denials of a PASID on a die have reached an asker, by its trap or its failure: a later access of its asks again (log 10). -/
def State.forgetDenial (s : State) (ask : Asker) (die pasid : Nat) : State :=
  s.modDie die (fun d => { d with
    denied := (d.denied.map (fun e => (e.1, e.2.filter (fun a => a != ask || e.1.pasid != pasid)))).filter
      (fun e => !e.2.isEmpty) })

/-- The bytes of HBM: 128 GiB for each die that is present (R12, R16). -/
def State.hbmSize (s : State) : Nat := s.dieCount * 137438953472

/-- Who makes an access (R100, R125). -/
inductive Access where
  | load | store | atomic | casl | red | fetch | engineRead | engineWrite
deriving DecidableEq, Repr

def Access.writes : Access → Bool
  | .load | .fetch | .engineRead => false
  | _ => true

/-- An M-slot access or a fetch, as against an engine's. -/
def Access.isSlot : Access → Bool
  | .engineRead | .engineWrite => false
  | _ => true

/-- The overflow region or a save area of the partition (R118, R212), by DPA (log 11). -/
def State.inOverflow (s : State) (part dpa : Nat) : Bool :=
  let d := s.part part
  d.overflowLen != 0 && d.overflowBase ≤ dpa && dpa < d.overflowBase + d.overflowLen

/-- The length of the save area of a partition on a die (R212). -/
def saveLen (cores clusters : Nat) : Nat := 65536 + 1048576 * cores + (4194304 + 65536) * clusters

def State.inSaveArea (s : State) (part dpa : Nat) : Bool :=
  let d := s.part part
  (List.range 4).any (fun i =>
    let base := d.saveArea.getD i 0
    let cs := d.cores.filter (fun c => dieOf c = i)
    base != 0 && base ≤ dpa && dpa < base + saveLen cs.length (cs.map clusterOf).eraseDups.length)

/-- The refusals of R100, R118, R125, R212 and R228 on a destination, in their order: the trap cause, or none. -/
def State.refusal (s : State) (core part : Nat) (k : Access) (sens : Sens) (place : Place) (a : Nat) :
    Option (BitVec 8) :=
  match place with
  | .hbm =>
    let g := s.granule a
    if !granuleV g || granulePart g != part then some 0x10
    else if k.isSlot && granuleSW g then some 0x06
    else if s.inOverflow part a || s.inSaveArea part a then some 0x06
    else if k.writes && (granuleSens g).code < sens.code then some 0x05
    else if k.writes && sens = .seal && sliceDie (s.sliceOf a) != dieOf core then some 0x05
    else none
  | .host =>
    if k = .atomic || k = .casl || k = .red then some 0x06
    else if k.writes && sens != .pub then some 0x05
    else none
  | .peer _ =>
    if k = .atomic || k = .casl then some 0x11
    else if k.writes && ((s.pageSens place a).code < sens.code || sens = .seal) then some 0x05
    else none
  | .s _ => none

/-- What an M-slot access to global memory meets (R88, R97, R100, R217). -/
inductive Reach where
  | ok (place : Place) (addr : Nat) (page : Miss)
  | trap (cause : BitVec 8) (val : Word)
  | block (m : Miss)
deriving DecidableEq, Repr

/-- Reach one global byte address for a context. -/
def State.reach (s : State) (who : Who) (part : Nat) (k : Access) (sens : Sens) (va : Nat) : Reach :=
  if va / 2 ^ 56 != 0 then .trap 0x10 (BitVec.ofNat 64 va)
  else
    match s.lookup (.slot who) (dieOf who.core) part va k.writes with
    | .miss m => .block m
    | .denied => .trap 0x10 (BitVec.ofNat 64 va)
    | .hit p a =>
      match s.refusal who.core part k sens p a with
      | some c => .trap c (BitVec.ofNat 64 va)
      | none => .ok p a ⟨part, va / 4096, k.writes⟩

/-! ### HBM lines: keys, MACs and the counter tree (R223 to R226) -/

/-- The number of a line within its slice (R98): the lines of the local pool first, then those of the shared pool. The spec gives no
numbering; this one is DESIGN CHOICE, log 12. -/
def State.sliceLine (s : State) (dpa : Nat) : Nat :=
  let g := 1073741824
  let nd := s.dieCount
  let l0 := s.localPool * g
  if dpa < nd * l0 then dpa % l0 / 64 / 32
  else
    let l := (dpa - nd * l0) / 64
    l0 / 2048 + (if nd = 3 then l / 3 / 32 else if nd = 4 then l / 128
      else l / 128 * 2 + (bitsOf l 0 7 ^^^ bitsOf l 7 7 ^^^ bitsOf l 14 7 ^^^ bitsOf l 21 7) / 64)

/-- The stack of a DPA (R11, R98). -/
def State.stackOf (s : State) (dpa : Nat) : Nat := s.sliceOf dpa / 16

/-- The number of a line within its stack, 30 bits (R223): each slice holds 2^26 lines, so 64 level-4 blocks (R224). -/
def State.stackLine (s : State) (dpa : Nat) : Nat := s.sliceOf dpa % 16 * 67108864 + s.sliceLine dpa

/-- The number of a counter of a level (R224): level 0 counts lines, level l the blocks of level l; level 4 stands for the root counters. -/
def treeIndex (stack level line : Nat) : Nat := (stack * 8 + level) * 2 ^ 40 + line / 32 ^ level

/-- No block above a line fails its MAC, or a write of the whole line has replaced it since with a fresh counter and MAC (R103, R225; that
the other lines below the block stay failed is DEDUCED, log 56). -/
def State.treeOk (s : State) (dpa : Nat) : Bool :=
  s.treeFresh.contains (dpa / 64) || [1, 2, 3, 4].all (fun level => !s.badBlocks.contains (treeIndex (s.stackOf dpa) level (s.stackLine dpa)))

/-- An HBM line reads: it has not failed, no block above it has, and it was written under its granule's key at a version still held, or
never written (R103, R223, R225, R271). -/
def State.lineOk (s : State) (dpa : Nat) : Bool :=
  let line := dpa / 64
  !s.badLines.contains line && s.treeOk dpa &&
  match s.lineKeys.find? line with
  | none => true
  | some m =>
    let k := s.key (granuleKey (s.granule dpa))
    m.slot.toNat = granuleKey (s.granule dpa) && (m.ver = k.ver || (k.pv && m.ver = k.pver))

/-- Every line that a range of HBM bytes touches reads. -/
def State.rangeOk (s : State) (p : Place) (a n : Nat) : Bool :=
  match p with
  | .hbm => (List.range ((a + n + 63) / 64 - a / 64)).all (fun i => s.lineOk ((a / 64 + i) * 64))
  | .s c => !(s.cluster c).sbad.contains (a / 256)
  | _ => true

/-- Raise one counter of the tree (R225): a minor counter past 4,095 raises MAJOR and clears its block's minors. None
where MAJOR cannot rise. -/
def State.raiseCounter (s : State) (stack level line : Nat) : Option State :=
  let child := treeIndex stack level line
  let block := treeIndex stack (level + 1) line
  let minor := s.treeMinor.get 0 child
  let major := s.treeMajor.get 0 block
  if s.treeSpent.contains block then none
  else if minor < 4095 then some { s with treeMinor := s.treeMinor.set child (minor + 1) }
  else if major + 1 > 2 ^ 48 - 1 then none
  else
    let first := child / 32 * 32
    some { s with
      treeMajor := s.treeMajor.set block (major + 1)
      treeMinor := s.treeMinor.filter (fun e => e.1 < first || first + 32 ≤ e.1) }

/-- A write of a line raises its counter and those of the blocks above it, up to the root counters (R224, R225). The spec gives a root counter no width and no limit: here it is a number that
always rises (DESIGN CHOICE, log 75). -/
def State.raiseTree (s : State) (dpa : Nat) : Option State :=
  let stack := s.stackOf dpa
  let line := s.stackLine dpa
  (s.raiseCounter stack 0 line).bind fun s =>
  (s.raiseCounter stack 1 line).bind fun s =>
  (s.raiseCounter stack 2 line).bind fun s =>
  (s.raiseCounter stack 3 line).bind fun s =>
  let root := treeIndex stack 4 line
  some { s with treeMinor := s.treeMinor.set root (s.treeMinor.get 0 root + 1) }

/-- A major counter that would pass 2^48 - 1 is spent: it stays, and every later write to its children is dropped (R225). -/
def State.spendTree (s : State) (dpa : Nat) : State :=
  let stack := s.stackOf dpa
  let line := s.stackLine dpa
  [0, 1, 2, 3].foldl (fun (u : State) level =>
    let block := treeIndex stack (level + 1) line
    if u.treeMinor.get 0 (treeIndex stack level line) = 4095 && u.treeMajor.get 0 block = 2 ^ 48 - 1 then
      { u with treeSpent := insertNat block u.treeSpent }
    else u) s

/-- An uncontested write of bytes within one HBM line: encrypted under the granule's key at its current version. None
where the counters cannot rise (R225). A write of the whole line ends every failure of it (R103). -/
def State.writeHbmLine (s : State) (dpa : Nat) (bs : List Byte) : Option State :=
  (s.raiseTree dpa).bind fun s =>
    let slot := granuleKey (s.granule dpa)
    some { s with
      hbm := s.hbm.putBytes dpa bs
      lineKeys := s.lineKeys.set (dpa / 64) ⟨BitVec.ofNat 13 slot, (s.key slot).ver⟩
      badLines := if bs.length = 64 then s.badLines.filter (fun l => l != dpa / 64) else s.badLines
      treeFresh := if bs.length = 64 && !s.treeOk dpa then insertNat (dpa / 64) s.treeFresh else s.treeFresh }

/-- A block of the counter tree fails its MAC: so do the lines below it, until each is written whole (R103, R225). -/
def State.blockFails (s : State) (stack level block : Nat) : State :=
  let id := (stack * 8 + level) * 2 ^ 40 + block % 2 ^ 40
  { s with
    badBlocks := insertNat id s.badBlocks
    treeFresh := s.treeFresh.filter (fun l => treeIndex (s.stackOf (64 * l)) level (s.stackLine (64 * l)) != id) }

/-! ### What stands in the stack (R222 to R226)

State holds what a slice reads of a line after decryption. What the stack holds follows from it and from the line's key and counter. -/

/-- The counter of a child of the tree: MAJOR and MINOR (R224). -/
def State.counterOf (s : State) (stack level line : Nat) : Nat :=
  s.treeMajor.get 0 (treeIndex stack (level + 1) line) * 4096 + s.treeMinor.get 0 (treeIndex stack level line)

/-- The initial value of a line (R223): stack, line number and line counter. -/
def State.lineIv (s : State) (dpa : Nat) : Nat × Nat × Nat :=
  (s.stackOf dpa, s.stackLine dpa, s.counterOf (s.stackOf dpa) 0 (s.stackLine dpa))

/-- The key slot and version under which a line stands. -/
def State.lineKey (s : State) (dpa : Nat) : Nat × Nat :=
  match s.lineKeys.find? (dpa / 64) with
  | some m => (m.slot.toNat, m.ver.toNat)
  | none => (granuleKey (s.granule dpa), (s.key (granuleKey (s.granule dpa))).ver.toNat)

/-- The 64 bytes of a line as the stack holds them: ciphertext, or for a granule of sealed weights the bytes as written (R223, R226). -/
def State.storedLine (s : State) (dpa : Nat) : List Byte :=
  let base := dpa / 64 * 64
  if granuleSW (s.granule dpa) then Mem.bytes s.hbm base 64
  else (Mem.bytes s.hbm base 64).zipIdx.map (fun b => b.1 ^^^ Config.lineStreamByte (s.lineKey dpa) (s.lineIv dpa) b.2)

/-- The metadata of a line beside it: its MAC and its version bit (R223, R226). -/
def State.storedMeta (s : State) (dpa : Nat) : BitVec 64 × Bool :=
  (Config.lineMac (s.lineKey dpa) (s.lineIv dpa) (s.storedLine dpa), (s.lineKey dpa).2 % 2 = 1)

/-- A counter block of 64 bytes as a number (R224): MAJOR, 32 minors, and the MAC under the parent's counter. -/
def State.storedBlock (s : State) (stack level line : Nat) : Nat :=
  let first := line / 32 ^ level * 32
  let major := s.treeMajor.get 0 (treeIndex stack level line)
  let minors := (List.range 32).map (fun i => s.treeMinor.get 0 ((stack * 8 + (level - 1)) * 2 ^ 40 + first + i))
  let parent := if level = 4 then s.treeMinor.get 0 (treeIndex stack 4 line) else s.counterOf stack level line
  major % 2 ^ 48 + (minors.zipIdx.foldl (fun n m => n + m.1 * 2 ^ (48 + 12 * m.2)) 0) +
    (Config.blockMac (stack, level, line / 32 ^ level, parent) major minors).toNat * 2 ^ 432

/-- The byte at a home. -/
def State.homeByte (s : State) (p : Place) (a : Nat) : Byte :=
  match p with
  | .hbm => s.hbm.byte a
  | .host => s.host.byte a
  | .peer k => (s.peer.get [] k).byte a
  | .s c => (s.cluster c).s.byte a

/-- Bytes at a home. -/
def State.homeBytes (s : State) (p : Place) (a n : Nat) : List Byte :=
  match p with
  | .hbm => s.hbm.bytes a n
  | .host => s.host.bytes a n
  | .peer k => (s.peer.get [] k).bytes a n
  | .s c => (s.cluster c).s.bytes a n

/-- Cut bytes at line boundaries of 64 bytes: address and bytes of each piece. -/
def cutLines : Nat → Nat → List Byte → List (Nat × List Byte)
  | 0, _, _ => []
  | _, _, [] => []
  | fuel + 1, a, bs =>
    let n := 64 - a % 64
    (a, bs.take n) :: cutLines fuel (a + n) (bs.drop n)

end Sys2Proof.Machine
end

