-- ==== Sys2Proof/Machine/Order.lean ====
section
/-! DEFINITION. The ordering model: writes performed at their homes, what a read may return, releases and acquires,
counters and the fault logs. -/

namespace Sys2Proof.Machine

/-! ### Performing writes (R101, R103, R113) -/

/-- Store bytes at a home outside HBM. -/
def State.putHome (s : State) (p : Place) (a : Nat) (bs : List Byte) : State :=
  match p with
  | .hbm => { s with hbm := s.hbm.putBytes a bs }
  | .host => { s with host := s.host.putBytes a bs }
  | .peer k => { s with peer := s.peer.set k ((s.peer.get [] k).putBytes a bs) }
  | .s c => s.modCluster c (fun k => { k with s := k.s.putBytes a bs })

/-- Two byte ranges meet. -/
def overlaps (a n b m : Nat) : Bool := a < b + m && b < a + n

/-- Perform one write within a line at its home: it takes its place in the order of writes (R113). False where it is
dropped: a failed line of which only a part is written, or counters that cannot rise (R103, R225). -/
def State.performLine (s : State) (w : Write) : State × Bool :=
  let s' := { s with hist := { w with prev := s.homeBytes w.place w.addr w.bytes.length } :: s.hist }
  match w.place with
  | .hbm =>
    if w.bytes.length < 64 && !s.lineOk w.addr then (s, false)
    else
      match s'.writeHbmLine w.addr w.bytes with
      | none => (s.spendTree w.addr, false)
      | some t => (t.perfAdd (granulePart (s.granule w.addr)) 17 1, true)
  | p => (s'.putHome p w.addr w.bytes, true)

/-- Perform a write of any length line by line; the dropped lines are left out. -/
def State.performAll (s : State) (p : Place) (a : Nat) (bs : List Byte) (sc : Scope) (ag : Agent) (ow : Option Who) :
    State × List Nat :=
  (cutLines (bs.length + 1) a bs).foldl (fun (acc : State × List Nat) (piece : Nat × List Byte) =>
    let (id, t) := acc.1.fresh
    let r := t.performLine ⟨id, p, piece.1, piece.2, [], sc, ag, ow⟩
    (r.1, if r.2 then acc.2 ++ [id] else acc.2)) (s, [])

/-- Whether a write covers a byte. -/
def Write.covers (w : Write) (p : Place) (a : Nat) : Bool :=
  w.place = p && w.addr ≤ a && a < w.addr + w.bytes.length

/-- The newest write that a test admits at a byte, with its number; else what the byte held before every write. -/
def pickByte (allowed : Write → Bool) (p : Place) (a : Nat) : List Write → Byte → Byte × Nat
  | [], d => (d, 0)
  | w :: ws, d =>
    if w.covers p a then
      if allowed w then (w.bytes.getD (a - w.addr) 0, w.id) else pickByte allowed p a ws (w.prev.getD (a - w.addr) 0)
    else pickByte allowed p a ws d

/-- Published at a scope that contains a core (R115 rule 3). -/
def Write.reaches (w : Write) (core : Nat) : Bool := Agent.within w.scope w.agent (.core core)

/-- The writes a read at `[a, a+n)` may return besides the visible ones, oldest first: published at a scope that contains the
reader's core, newer than what is visible at some byte, and before any write at which the reading stops
(R101, R115 rule 3). -/
def State.optional (s : State) (core : Nat) (visible stop : Write → Bool) (p : Place) (a n : Nat) : List Write :=
  let touching := (s.hist.filter (fun w => w.place = p && overlaps w.addr w.bytes.length a n)).reverse
  (touching.takeWhile (fun w => !stop w)).filter (fun w =>
    !visible w && w.reaches core &&
    (List.range n).any (fun i => (pickByte (fun x => visible x || x.id = w.id) p (a + i) s.hist 0).2 = w.id))

/-- Read bytes indivisibly at their home: the free choice is how many of the optional writes have been reached. Answers
each byte with the write it came from. -/
def State.readChoice (s : State) (core : Nat) (visible stop : Write → Bool) (p : Place) (a n : Nat) :
    List (Byte × Nat) × State :=
  let opt := s.optional core visible stop p a n
  let (k, s) := s.choose (opt.length + 1)
  let ids := (opt.take k).map Write.id
  ((List.range n).map (fun i =>
    pickByte (fun w => visible w || ids.contains w.id) p (a + i) s.hist (s.homeByte p (a + i))), s)

/-- What a context's read sees without a choice: the writes its acquires made visible and its own earlier ones. -/
def Write.seenBy (w : Write) (who : Who) (vis : List Nat) (born : Nat) : Bool :=
  vis.contains w.id || (w.owner = some who && w.id < born)

/-- A plain read of a context (R115 rule 3); a later store of its own arrives after it (R101). -/
def State.readHome (s : State) (who : Who) (vis : List Nat) (born : Nat) (p : Place) (a n : Nat) :
    List (Byte × Nat) × State :=
  s.readChoice who.core (fun w => w.seenBy who vis born) (fun w => w.owner = some who && !(w.id < born)) p a n

/-- An engine's read for a command of a context (R133): what the context would have read at the command's issue, or a
later published write. `own` are the stores that were private at issue. -/
def State.engineRead (s : State) (who : Who) (own : List Store) (vis : List Nat) (born : Nat) (p : Place) (a n : Nat) :
    List Byte × State :=
  let (bs, s) := s.readChoice who.core (fun w => w.seenBy who vis born) (fun _ => false) p a n
  let pending := (own.filter (fun t => t.place = p)).reverse
  ((bs.zipIdx).map (fun b =>
    match pending.find? (fun t => t.addr ≤ a + b.2 && a + b.2 < t.addr + t.bytes.length &&
        !(s.hist.any (fun w => w.id = t.id && w.covers p (a + b.2)))) with
    | some t => t.bytes.getD (a + b.2 - t.addr) 0
    | none => b.1.1), s)

/-- What rules 1 and 2 of R115 fix at a byte when a read issues: the context's own latest store, unpublished or made since
its latest acquire, else the value its phase has read; with the write it comes from. -/
def State.fixedByte (s : State) (who : Who) (own : List Store) (phase : Nat) (p : Place) (a : Nat) :
    Option (Byte × Nat) :=
  let at' (t : Store) : Option (Byte × Nat) :=
    if t.place = p && t.addr ≤ a && a < t.addr + t.bytes.length then t.bytes[a - t.addr]?.map (fun b => (b, t.id)) else none
  match own.reverse.findSome? at' with
  | some b => some b
  | none =>
    let here (b : PhaseByte) : Bool := b.phase = phase && b.place = p && b.addr = a
    let bytes := (s.ctx who).phaseBytes
    match bytes.find? (fun b => here b && b.own) with
    | some b => some (b.val, b.id)
    | none => (bytes.find? here).map (fun b => (b.val, b.id))

/-- The stores a context holds that no other agent sees yet, oldest first: those under publication, then the unpublished
ones (R111). -/
def State.ownStores (s : State) (who : Who) : List Store :=
  ((s.pubs.filter (fun p => p.who = who)).flatMap Pub.stores) ++ (s.ctx who).stores

/-! ### Releases and acquires (R112, R114) -/

/-- The release record of a number. -/
def State.release? (s : State) (id : Nat) : Option Release := s.releases.find? (fun r => r.id = id)

/-- The writes of a release count as published at a scope (R112): cumulative, so writes made visible before are too. -/
def State.publishWrites (s : State) (ids : List Nat) (sc : Scope) (ag : Agent) : State :=
  { s with hist := s.hist.map (fun w =>
      if ids.contains w.id && w.scope.code < (sc.narrow w.place.widest).code
      then { w with scope := sc.narrow w.place.widest, agent := ag } else w) }

/-- Start a release at a scope (R112): every store the context holds goes under publication, with everything its earlier
acquires made visible. Answers the release and the publication that must be complete first, if one is needed. -/
def State.startRelease (s : State) (who : Who) (sc : Scope) (fence : Bool) : Nat × Option Nat × State :=
  let c := s.ctx who
  let older := s.pubs.filter (fun p => p.who = who)
  let ids := unionNat (c.stores.map Store.id) (unionNat (older.flatMap (fun p => p.stores.map Store.id)) c.vis)
  let (rid, s) := s.fresh
  let s := { s with releases := ⟨rid, .core who.core, sc, ids, none⟩ :: s.releases }
  if c.stores.isEmpty && older.isEmpty then
    (rid, none, s.publishWrites ids sc (.core who.core))
  else
    let (pid, s) := s.fresh
    let s := { s with pubs := s.pubs ++ ([⟨pid, who, sc, c.stores, ids, fence⟩] : List Pub) }
    let s := s.modCtx who (fun c => { c with
      stores := []
      phaseBytes := (c.stores.flatMap (fun (t : Store) => (List.range t.bytes.length).map (fun i =>
        { phase := t.phase, own := true, place := t.place, addr := t.addr + i, id := t.id,
          val := t.bytes.getD i 0 : PhaseByte }))).reverse ++ c.phaseBytes })
    (rid, some pid, s)

/-- An acquire at a scope matches a release where each side lies within the other's scope (R114). -/
def Release.matches (r : Release) (me : Agent) (sc : Scope) : Bool :=
  Agent.within r.scope r.agent me && Agent.within sc me r.agent

/-- The writes that an acquire makes visible through releases (R114). -/
def State.acquired (s : State) (me : Agent) (sc : Scope) (rels : List Nat) : List Nat :=
  (rels.filterMap s.release?).foldl (fun acc r =>
    if r.matches me sc then unionNat (r.writes ++ r.own.toList) acc else acc) []

/-- An acquire of a context begins a new phase (R115, R116). -/
def State.acquire (s : State) (who : Who) (sc : Scope) (rels : List Nat) : State :=
  let new := s.acquired (.core who.core) sc rels
  s.modCtx who (fun c => { c with vis := unionNat new c.vis, phase := c.phase + 1 })

/-- The writes at a byte at or before write `id` in its order. -/
def State.upTo (s : State) (p : Place) (a id : Nat) : List Nat :=
  ((s.hist.filter (fun w => w.covers p a)).dropWhile (fun w => w.id != id)).map Write.id

/-- The releases that a FENCE.acq matches (R114): a landed read returned the release's own write, a write it published, or
a later one; and the advances included in counter values read. -/
def State.fenceMatches (s : State) (who : Who) : List Nat :=
  let c := s.ctx who
  let reached := c.seen.flatMap (fun t => s.upTo t.1 t.2.1 t.2.2)
  unionNat c.seenRels ((s.releases.filter (fun r =>
    (r.own.toList ++ r.writes).any (fun w => reached.contains w))).map Release.id)

/-- The releases whose own write comes before now at a location (R114, atomics). -/
def State.ownBefore (s : State) (p : Place) (a n : Nat) : List Nat :=
  let ids := (s.hist.filter (fun w => w.place = p && overlaps w.addr w.bytes.length a n)).map Write.id
  (s.releases.filter (fun r => r.own.any (fun w => ids.contains w))).map Release.id

/-- A release's own write has been performed as write `w`. -/
def State.setOwn (s : State) (rel w : Nat) : State :=
  { s with releases := s.releases.map (fun r => if r.id = rel then { r with own := some w } else r) }

/-! ### Counters (R117 to R120) -/

/-- The home of a handle whose checks have passed; kind 11 has none. An S word lies under the HASHKEY captured at issue. -/
inductive HandleHome where
  | cistern (die idx : Nat)
  | sword (addr : Nat)
  | memory (va : Nat)
  | bad
deriving DecidableEq, Repr

/-- The fields of a handle (R117). -/
def handleHome (h : Word) : HandleHome :=
  let n := h.toNat
  match bitsOf n 62 2 with
  | 0 => if bitsOf n 32 30 != 0 || bitsOf n 16 14 != 0 then .bad else .cistern (bitsOf n 30 2) (bitsOf n 0 16)
  | 1 => if bitsOf n 22 40 != 0 || bitsOf n 0 3 != 0 then .bad else .sword (bitsOf n 0 22)
  | 2 => if bitsOf n 56 6 != 0 || bitsOf n 0 3 != 0 then .bad else .memory (bitsOf n 0 56)
  | _ => .bad

/-- A Cistern index lies in a partition's quota on a die (R118, R248). -/
def State.inQuota (s : State) (part die idx : Nat) : Bool :=
  let q := (s.part part).quota.getD die (0, 0)
  q.1 ≤ idx && idx < q.1 + q.2

/-- What checking a handle finds (R118). -/
inductive HandleCheck where
  | ok (key : CtrKey)
  | trap (cause : BitVec 8) (val : Word)
  | block (m : Miss)
deriving DecidableEq, Repr

/-- The handle checks of R118, in their order. -/
def State.checkHandle (s : State) (who : Who) (part : Nat) (hashKey : Word) (write : Bool) (h : Word) : HandleCheck :=
  let core := who.core
  match handleHome h with
  | .bad => .trap 0x08 h
  | .cistern d i =>
    if !s.diePresent d then .trap 0x08 h
    else if !s.inQuota part d i then .trap 0x06 h else .ok (.cistern d i)
  | .sword a =>
    if (s.window core part).2 < a + 8 then .trap 0x06 h
    else .ok (.sword (clusterOf core) (s.sPhys core part hashKey a))
  | .memory va =>
    match s.lookup (.slot who) (dieOf core) part va write with
    | .miss m => .block m
    | .denied => .trap 0x10 (BitVec.ofNat 64 va)
    | .hit p a =>
      if p = .hbm && s.inOverflow part a then .ok (.memory p a) else .trap 0x06 (BitVec.ofNat 64 va)

/-- The value of a counter at its home. -/
def State.ctrValue (s : State) (k : CtrKey) : Nat :=
  match k with
  | .cistern d i => ((s.die d).cistern.get Counter.zero i).value
  | .sword c a => (s.cluster c).s.num a 8
  | .memory p a => leNat (s.homeBytes p a 8)

/-- The advances included in a counter's value (R114, R118). -/
def State.ctrRels' (s : State) (k : CtrKey) : List Nat :=
  match k with
  | .cistern d i => ((s.die d).cistern.get Counter.zero i).rels
  | _ => ((s.ctrRels.find? (fun e => e.1 = k)).map Prod.snd).getD []

/-- The die whose Cistern holds a counter's waiters (R120). -/
def State.waiterDie (s : State) (k : CtrKey) : Nat :=
  match k with
  | .cistern d _ => d
  | .sword c _ => c / 16
  | .memory _ a => sliceDie (s.sliceOf a)

/-- A waiter on a counter that a value satisfies. -/
def Waiter.satisfied (k : CtrKey) (v : Nat) : Waiter → Waiter
  | .ctx w k' t d => .ctx w k' t (d || (k' = k && t ≤ v))
  | .task n k' t d => .task n k' t (d || (k' = k && t ≤ v))
  | .nest n k' t d => .nest n k' t (d || (k' = k && t ≤ v))

/-- A waiter whose wake is due (R120). -/
def Waiter.due : Waiter → Bool
  | .ctx _ _ _ d => d
  | .task _ _ _ d => d
  | .nest _ _ _ d => d

/-- An advance that brings a counter to a value satisfies every waiter whose target is no more (R120). -/
def State.satisfy (s : State) (k : CtrKey) (v : Nat) : State :=
  s.modDie (s.waiterDie k) (fun d => { d with waiters := d.waiters.map (Waiter.satisfied k v) })

/-- Perform an advance at a counter's home (R119): none where the value would pass 2^64 - 1. It counts as published at the
counter's widest scope (R113). -/
def State.ctrAdvance (s : State) (k : CtrKey) (amt : Nat) (rel : Nat) : Option State :=
  let v := s.ctrValue k + amt
  if v > 18446744073709551615 then none
  else
    match k with
    | .cistern d i =>
      some ((s.modDie d (fun x => { x with
        cistern := x.cistern.set i ⟨v, insertNat rel ((x.cistern.get Counter.zero i).rels)⟩ })).satisfy k v)
    | .sword c a =>
      let rels := s.ctrRels' k
      let (id, s) := s.fresh
      let s := (s.performLine ⟨id, .s c, a, leBytes 8 v, [], .cluster, .core (c * 16), none⟩).1
      some (({ s.setOwn rel id with
        ctrRels := (k, insertNat rel rels) :: s.ctrRels.filter (fun e => e.1 != k) } : State).satisfy k v)
    | .memory p a =>
      let rels := s.ctrRels' k
      let (id, s) := s.fresh
      let s := (s.performLine ⟨id, p, a, leBytes 8 v, [], .package, .die (sliceDie (s.sliceOf a)), none⟩).1
      some (({ s.setOwn rel id with
        ctrRels := (k, insertNat rel rels) :: s.ctrRels.filter (fun e => e.1 != k) } : State).satisfy k v)

/-- An access to a counter in S space counts as one of its bank, and one in HBM as a line read (R264; DESIGN CHOICE, log 78). -/
def State.countCtrOf (s : State) (part : Nat) (k : CtrKey) : State :=
  match k with
  | .cistern _ _ => s
  | .sword _ _ => s.perfAdd part 18 1
  | .memory p _ => if p = .hbm then s.perfAdd part 16 1 else s

def State.countCtr (s : State) (w : Who) (k : CtrKey) : State := s.countCtrOf (s.ctx w).part k

/-- A store to an S word counter is no advance: the advances before it no longer count as included (R118). R118 says so of M-slot writes;
that an engine's data write to the word does the same is DESIGN CHOICE, log 77. -/
def State.forgetAdvances (s : State) (p : Place) (a n : Nat) : State :=
  { s with ctrRels := s.ctrRels.filter (fun e =>
      match e.1 with
      | .sword c x => !(p = .s c && overlaps a n x 8)
      | _ => true) }

/-- Advance a counter that a handle of the partition's descriptor names, by 1: a Cistern counter of its quota on a die that is present
(R247, R248, R270); one that would pass 2^64 - 1 is left unchanged (R209). -/
def State.advanceHandle (s : State) (part : Nat) (h : Word) (rel : Nat) : State :=
  match handleHome h with
  | .cistern d i => if s.diePresent d && s.inQuota part d i then (s.ctrAdvance (.cistern d i) 1 rel).getD s else s
  | _ => s

/-- Enter a waiter in its counter's list (R120): one whose target the counter has reached is due at once. -/
def State.addWaiter (s : State) (k : CtrKey) (w : Waiter) : State :=
  s.modDie (s.waiterDie k) (fun d => { d with waiters := d.waiters ++ [w.satisfied k (s.ctrValue k)] })

/-! ### Fault logs (R170, R209, R249) -/

/-- Write a record of 32 bytes to a log ring at a DPA: the serial in its header chooses the slot and then rises
(R249). A ring lies in HBM that is present (R12, R16). -/
def State.ringWrite (s : State) (base k : Nat) (rec' : List Byte) : State :=
  if s.hbmSize < base + 32 * 2 ^ k then s else
  let serial := leNat (s.homeBytes .hbm base 8)
  let slot := 1 + serial % (2 ^ k - 1)
  let put (t : State) (a : Nat) (bs : List Byte) : State := (t.performAll .hbm a bs .package .outside none).1
  put (put s (base + 32 * slot) rec') base (leBytes 8 (serial + 1))

/-- A fault log record (R249). -/
def faultRecord (kind : Nat) (cause : Nat) (unit tenant addr handle pc : Nat) : List Byte :=
  leBytes 1 kind ++ leBytes 1 cause ++ leBytes 2 unit ++ leBytes 2 tenant ++ leBytes 2 0 ++ leBytes 8 addr ++
  leBytes 8 handle ++ leBytes 8 pc

/-- Write the partition's fault log, then advance the counter of its kind (R209, R249). No field of the layout holds SRC of a plane header,
which R140 says is reported in fault records (DESIGN CHOICE, log 72). Counter 31 counts launch faults, and not the END advances of R180
that would overflow (DESIGN CHOICE, log 91). -/
def State.faultLog (s : State) (part kind cause unit tenant addr handle pc : Nat) : State :=
  let d := s.part part
  let s := s.ringWrite d.faultLog d.faultLogK (faultRecord kind cause unit tenant addr handle pc)
  let (rid, s) := s.fresh
  match kind with
  | 3 => s.advanceHandle part d.memoryCtr rid
  | 4 => s.advanceHandle part d.taskCtr rid
  | 5 => s.advanceHandle part d.launchCtr rid
  | _ => (s.advanceHandle part d.launchCtr rid).perfAdd part 31 1

/-- A memory fault of a dropped write (R103, R209). The record's address is the device physical address, which the slice holds: the spec
does not say whether that or the virtual address (DESIGN CHOICE, log 76). -/
def State.memoryFault (s : State) (who : Who) (dpa : Nat) : State :=
  let c := s.ctx who
  s.faultLog c.part 3 0x0F (s.sliceOf dpa) c.kslot.toNat dpa c.taskId.toNat 0

/-- Record an engine failure (R170): the record, then the engine-fault counter. Its layout too has no field for SRC (R140; DESIGN CHOICE,
log 72). The channel bits of a command that has no channel are 0 (DESIGN CHOICE, log 92). -/
def State.engineRecord (s : State) (part : Nat) (who : Who) (engine cause channel done addr : Nat) (taskId : Word) : State :=
  let d := s.part part
  let rec' := leBytes 1 engine ++ leBytes 1 cause ++ leBytes 2 who.core ++ leBytes 1 (who.ctx % 4 + 4 * channel) ++
    leBytes 3 0 ++ leBytes 8 done ++ leBytes 8 addr ++ leBytes 8 taskId.toNat
  let s := s.ringWrite d.engineRing d.engineRingK rec'
  let (rid, s) := s.fresh
  (s.advanceHandle part d.engineCtr rid).perfAdd part 27 1

/-- An engine failure (R170): the record, the engine-fault counter, and then the count. -/
def State.engineFailure (s : State) (who : Who) (cls : Cls) (engine cause channel done addr : Nat) : State :=
  let c := s.ctx who
  (s.engineRecord c.part who engine cause channel done addr c.taskId).modCtx who (fun c => c.drop cls 1)

end Sys2Proof.Machine
end

