-- ==== Sys2Proof/Machine/Buffers.lean ====
section
/-! DEFINITION. The X, Y and W buffers and S space with their line tags (R57, R59, R60, R86 to R95). -/

namespace Sys2Proof.Machine

/-- Extents of the buffers (R86). -/
def xLen : Nat := 262144
def yLen : Nat := 131072
def wLen : Nat := 204800

/-- The lines of 256 bytes that a range touches. -/
def linesOf (a n : Nat) : List Nat := (List.range ((a + n + 255) / 256 - a / 256)).map (fun i => a / 256 + i)

/-- A line's tags after data reaches it from an M slot (R57, R60): a whole line takes the data's tag, a part keeps an
equal tag and turns any other into raw. -/
def LineTag.stored (t : LineTag) (whole : Bool) (fmt : Tag) (sens : Sens) : LineTag :=
  { t with fmt := if whole || fmt = t.fmt then fmt else 0, sens := t.sens.max sens }

/-- A line's tags after an engine writes it (R158, R167, R171). -/
def LineTag.written (t : LineTag) (fmt : Tag) (layout : BitVec 2) (sens : Sens) : LineTag :=
  ⟨fmt, t.sens.max sens, layout⟩

/-- Change the tags of the lines a range touches; `f` is told whether the range covers the whole line. -/
def tagRange (m : SMap LineTag) (a n : Nat) (f : Bool → LineTag → LineTag) : SMap LineTag :=
  (linesOf a n).foldl (fun m l =>
    m.set l (f (a ≤ l * 256 && l * 256 + 256 ≤ a + n) (m.get LineTag.reset l))) m

/-- The highest sensitivity among the lines a range touches. -/
def rangeSens (m : SMap LineTag) (a n : Nat) : Sens :=
  (linesOf a n).foldl (fun acc l => acc.max (m.get LineTag.reset l).sens) .pub

/-! ### X and Y (R90, R91) -/

def Core.buf (k : Core) (yspace : Bool) : Mem := if yspace then k.y else k.x
def Core.bufTags (k : Core) (yspace : Bool) : SMap LineTag := if yspace then k.ytags else k.xtags

/-- Change X or Y. A write replaces what a failed line held only where it covers the line whole. -/
def Core.putBuf (k : Core) (yspace : Bool) (a : Nat) (bs : List Byte) (f : Bool → LineTag → LineTag) : Core :=
  let heal (l : List Nat) : List Nat :=
    l.filter (fun i => !(a ≤ i * 256 && i * 256 + 256 ≤ a + bs.length))
  if yspace then { k with y := k.y.putBytes a bs, ytags := tagRange k.ytags a bs.length f, ybad := heal k.ybad }
  else { k with x := k.x.putBytes a bs, xtags := tagRange k.xtags a bs.length f, xbad := heal k.xbad }

/-- An M-slot store to X or Y (R57, R60). -/
def Core.slotStore (k : Core) (t : BufStore) : Core :=
  k.putBuf t.yspace t.addr t.bytes (fun whole l => l.stored whole t.fmt t.sens)

/-- No line of a buffer range has failed (R103). -/
def Core.bufOk (k : Core) (yspace : Bool) (a n : Nat) : Bool :=
  (linesOf a n).all (fun l => !(if yspace then k.ybad else k.xbad).contains l)

/-! ### S space (R93 to R95) -/

/-- The tags of an S line with some stores to it that its bank has not performed. -/
def State.sTagWith (s : State) (own : List Store) (cl phys : Nat) : LineTag :=
  own.foldl (fun t st =>
    if st.place = .s cl && st.addr / 256 = phys / 256 then t.stored (st.bytes.length = 256) st.fmt st.sens else t)
    ((s.cluster cl).stags.get LineTag.reset (phys / 256))

/-- The tags of an S line as a context sees them, its own stores to it that no other agent sees among them. -/
def State.sTag (s : State) (who : Who) (cl phys : Nat) : LineTag := s.sTagWith (s.ownStores who) cl phys

/-- Tags of S lines change when a store is performed at its bank. -/
def State.tagS (s : State) (cl a n : Nat) (f : Bool → LineTag → LineTag) : State :=
  s.modCluster cl (fun k => { k with
    stags := tagRange k.stags a n f
    sbad := k.sbad.filter (fun i => !(a ≤ i * 256 && i * 256 + 256 ≤ a + n)) })

/-- Perform a published store at its home (R113), with the tags of an S line and the counters of R118. False where it is
dropped (R103). -/
def State.performStore (s : State) (who : Who) (t : Store) (sc : Scope) : State × Bool :=
  let r := s.performLine ⟨t.id, t.place, t.addr, t.bytes, [], sc.narrow t.place.widest, .core who.core, some who⟩
  if r.2 then
    let s := r.1.forgetAdvances t.place t.addr t.bytes.length
    let s := s.modCtx who (fun c => { c with vis := insertNat t.id c.vis })
    match t.place with
    | .s cl => (s.tagS cl t.addr t.bytes.length (fun whole l => l.stored whole t.fmt t.sens), true)
    | _ => (s, true)
  else (s.memoryFault who t.addr, false)

/-! ### Engine accesses -/

/-- Engines write S space line by line at bank addresses; the bytes of one S line stay together (R94). -/
def cutS : Nat → Nat → List Byte → List (Nat × List Byte)
  | 0, _, _ => []
  | _, _, [] => []
  | fuel + 1, a, bs =>
    let n := 256 - a % 256
    (a, bs.take n) :: cutS fuel (a + n) (bs.drop n)

end Sys2Proof.Machine
end

