-- ==== Sys2Proof/Machine/Flags.lean ====
section
/-! DEFINITION. The sticky flags of FLAGS (R46, R71). The computations that raise them are those of Float.lean (rounding), the
drain and the accumulator (Array.lean), the sweeps (Sweep.lean) and the conversions (Vector.lean). -/

namespace Sys2Proof.Machine

/-- FLAGS bits (R46). -/
def flIV : BitVec 7 := 1
def flDZ : BitVec 7 := 2
def flOF : BitVec 7 := 4
def flUF : BitVec 7 := 8
def flNX : BitVec 7 := 16
def flSAT : BitVec 7 := 32
def flACC : BitVec 7 := 64

/-- The flag of a condition. -/
def flagIf (b : Bool) (f : BitVec 7) : BitVec 7 := if b then f else 0

/-- The bits OR into a context's FLAGS at once (R46). -/
def State.orFlags (s : State) (w : Who) (f : BitVec 7) : State := s.modCtx w (fun c => { c with flags := c.flags ||| f })

end Sys2Proof.Machine
end

