-- ==== Sys2Proof/Machine/Float.lean ====
section
/-! DEFINITION. Floating-point formats, exact values and the one rounding of R65 to R72. -/

namespace Sys2Proof.Machine

/-- A floating-point format (R65): exponent and fraction bits, bias, and whether it has infinities. -/
structure FFmt where
  ebits : Nat
  fbits : Nat
  bias : Nat
  hasInf : Bool
deriving DecidableEq, Repr

def f32Fmt : FFmt := ⟨8, 23, 127, true⟩
def bf16Fmt : FFmt := ⟨8, 7, 127, true⟩
def f16Fmt : FFmt := ⟨5, 10, 15, true⟩
def e4m3Fmt : FFmt := ⟨4, 3, 7, false⟩
def e5m2Fmt : FFmt := ⟨5, 2, 15, true⟩

/-- The format of a type code (R63). -/
def ffmt (t : Tag) : Option FFmt :=
  match t.toNat with
  | 8 => some bf16Fmt
  | 9 => some f16Fmt
  | 10 => some f32Fmt
  | 11 => some e4m3Fmt
  | 12 => some e5m2Fmt
  | _ => none

/-- Element width of a type code in bits (R63). -/
def tagBits (t : Tag) : Nat :=
  match t.toNat with
  | 1 | 2 | 11 | 12 | 15 => 8
  | 3 | 4 | 8 | 9 => 16
  | 5 | 6 | 10 => 32
  | 7 => 64
  | 13 | 14 => 4
  | _ => 8

/-- Signed integer types (R63, R64). -/
def tagSigned (t : Tag) : Bool := t.toNat = 1 || t.toNat = 3 || t.toNat = 5 || t.toNat = 7 || t.toNat = 13

/-- Integer types (R54). -/
def tagInt (t : Tag) : Bool := (1 ≤ t.toNat && t.toNat ≤ 7) || 13 ≤ t.toNat

/-- A value of R65: a NaN, an infinity, or a sign and m * 2^e. -/
inductive FVal where
  | nan
  | inf (neg : Bool)
  | fin (neg : Bool) (m : Nat) (e : Int)
deriving DecidableEq, Repr

def FFmt.width (f : FFmt) : Nat := 1 + f.ebits + f.fbits

/-- Read a value (R65). -/
def FFmt.read (f : FFmt) (w : Nat) : FVal :=
  let frac := w % 2 ^ f.fbits
  let ex := w / 2 ^ f.fbits % 2 ^ f.ebits
  let neg := w / 2 ^ (f.fbits + f.ebits) % 2 = 1
  if ex = 2 ^ f.ebits - 1 && f.hasInf then (if frac = 0 then .inf neg else .nan)
  else if !f.hasInf && ex = 2 ^ f.ebits - 1 && frac = 2 ^ f.fbits - 1 then .nan
  else if ex = 0 then .fin neg frac (1 - f.bias - f.fbits)
  else .fin neg (2 ^ f.fbits + frac) ((ex : Int) - f.bias - f.fbits)

def FFmt.signBit (f : FFmt) (neg : Bool) : Nat := neg.toNat * 2 ^ (f.ebits + f.fbits)

/-- The canonical NaN (R66). -/
def FFmt.nan (f : FFmt) : Nat :=
  if f.hasInf then (2 ^ f.ebits - 1) * 2 ^ f.fbits + 2 ^ (f.fbits - 1) else 2 ^ (f.ebits + f.fbits) - 1

/-- An infinity; e4m3 has none (R66). -/
def FFmt.inf (f : FFmt) (neg : Bool) : Nat := f.signBit neg + (2 ^ f.ebits - 1) * 2 ^ f.fbits

/-- The largest finite value's pattern (R66). -/
def FFmt.maxFin (f : FFmt) (neg : Bool) : Nat :=
  f.signBit neg + (if f.hasInf then (2 ^ f.ebits - 1) * 2 ^ f.fbits - 1 else 2 ^ (f.ebits + f.fbits) - 2)

/-- floor(num/den * 2^-q), whether anything is left, and how twice the rest compares with the quantum: the parts of a
rounding to multiples of 2^q. -/
def quantum (num den : Nat) (q : Int) : Nat × Bool × Ordering :=
  let n := if 0 ≤ q then num else num * 2 ^ (-q).toNat
  let d := if 0 ≤ q then den * 2 ^ q.toNat else den
  (n / d, n % d != 0, compare (2 * (n % d)) d)

/-- Round a magnitude to a multiple of 2^q in a mode (R68): 0 RNE, 1 RTZ, 2 RDN, 3 RUP. -/
def roundMag (rm : Nat) (neg : Bool) (num den : Nat) (q : Int) : Nat × Bool :=
  let (n, rest, half) := quantum num den q
  let up : Bool :=
    match rm with
    | 0 => half = .gt || (half = .eq && n % 2 = 1)
    | 1 => false
    | 2 => rest && neg
    | _ => rest && !neg
  (if up then n + 1 else n, rest)

/-- floor of the base-2 logarithm of a positive rational. -/
def ratLog2 (num den : Nat) : Int :=
  let e : Int := (Nat.log2 num : Int) - Nat.log2 den
  let below := if 0 ≤ e then num < den * 2 ^ e.toNat else num * 2 ^ (-e).toNat < den
  if below then e - 1 else e

/-- n * 2^q compared with m * 2^r, for naturals and integers: the first is larger. -/
def scaledGt (n : Nat) (q : Int) (m : Nat) (r : Int) : Bool :=
  let b := min q r
  n * 2 ^ (q - b).toNat > m * 2 ^ (r - b).toNat

/-- The rounded pattern and flags of the magnitude num/den > 0 with a sign (R68, R69, R71); `sat` is the saturate bit where it
applies. -/
def FFmt.round (f : FFmt) (rm : Nat) (sat : Bool) (neg : Bool) (num den : Nat) : Nat × BitVec 7 :=
  let emin : Int := 1 - f.bias
  let lg := ratLog2 num den
  let free := roundMag rm neg num den (lg - f.fbits)
  let tiny := !(emin ≤ lg || (lg = emin - 1 && free.1 = 2 ^ (f.fbits + 1)))
  let q : Int := max (lg - f.fbits) (emin - f.fbits)
  let (n, rest) := roundMag rm neg num den q
  let maxM := if f.hasInf then 2 ^ (f.fbits + 1) - 1 else 2 ^ (f.fbits + 1) - 2
  let maxE : Int := (2 ^ f.ebits : Nat) - (if f.hasInf then 2 else 1 : Int) - f.bias - f.fbits
  if scaledGt n q maxM maxE then
    let flags := flOF ||| flNX
    if sat then (f.maxFin neg, flags ||| flSAT)
    else
      let toMax := rm = 1 || (rm = 2 && !neg) || (rm = 3 && neg)
      if toMax then (f.maxFin neg, flags) else (if f.hasInf then f.inf neg else f.nan, flags)
  else
    let flags := (if rest then flNX else 0) ||| (if rest && tiny then flUF else 0)
    let body :=
      if n < 2 ^ f.fbits then n
      else if n = 2 ^ (f.fbits + 1) then (q + 1 + f.fbits + f.bias).toNat * 2 ^ f.fbits
      else (q + f.fbits + f.bias).toNat * 2 ^ f.fbits + (n - 2 ^ f.fbits)
    (f.signBit neg + body, flags)

/-- An exact sum or product of the form i * 2^e. -/
structure Dyadic where
  i : Int
  e : Int
deriving DecidableEq, Repr

def Dyadic.add (a b : Dyadic) : Dyadic :=
  let m := min a.e b.e
  ⟨a.i * 2 ^ (a.e - m).toNat + b.i * 2 ^ (b.e - m).toNat, m⟩
def Dyadic.mul (a b : Dyadic) : Dyadic := ⟨a.i * b.i, a.e + b.e⟩

/-- Round an exact dyadic that is not zero. -/
def FFmt.roundDyadic (f : FFmt) (rm : Nat) (sat : Bool) (d : Dyadic) : Nat × BitVec 7 :=
  let m := d.i.natAbs
  f.round rm sat (d.i < 0) (if 0 ≤ d.e then m * 2 ^ d.e.toNat else m) (if 0 ≤ d.e then 1 else 2 ^ (-d.e).toNat)

/-- One addend of an exact expression: an infinity, or a signed dyadic (a zero keeps its sign). -/
inductive Term where
  | inf (neg : Bool)
  | fin (neg : Bool) (d : Dyadic)
  | nan
  | invalid
deriving DecidableEq, Repr

def FVal.term : FVal → Term
  | .nan => .nan
  | .inf n => .inf n
  | .fin n m e => .fin n ⟨if n then -(m : Int) else m, e⟩

/-- The exact product of two values; 0 times an infinity is invalid (R71). -/
def FVal.mul (a b : FVal) : Term :=
  match a, b with
  | .nan, _ => .nan
  | _, .nan => .nan
  | .inf n, .inf m => .inf (n != m)
  | .inf n, .fin m k _ => if k = 0 then .invalid else .inf (n != m)
  | .fin m k _, .inf n => if k = 0 then .invalid else .inf (n != m)
  | .fin n k e, .fin m j e' =>
    .fin (n != m) ⟨(if n != m then -1 else 1) * ((k * j : Nat) : Int), e + e'⟩

/-- The rounded sum of exact terms (R68, R80): an invalid term or infinities of both signs give the canonical NaN with
IV; else a NaN operand gives the canonical NaN; an exact zero takes the common sign of its terms, or the sign of
x + (-x) in the mode. -/
def FFmt.sum (f : FFmt) (rm : Nat) (ts : List Term) : Nat × BitVec 7 :=
  let isInf (n : Bool) : Term → Bool
    | .inf m => m = n
    | _ => false
  if ts.contains .invalid || (ts.any (isInf true) && ts.any (isInf false)) then (f.nan, flIV)
  else if ts.contains .nan then (f.nan, 0)
  else if ts.any (isInf true) then (f.inf true, 0)
  else if ts.any (isInf false) then (f.inf false, 0)
  else
    let total := ts.foldl (fun acc t => match t with
      | .fin _ d => acc.add d
      | _ => acc) (⟨0, 0⟩ : Dyadic)
    if total.i = 0 then
      let zeros (n : Bool) := ts.all (fun t => match t with
        | .fin m d => d.i = 0 && m = n
        | _ => false)
      (f.signBit (if zeros true then true else if zeros false then false else rm = 2), 0)
    else f.roundDyadic rm false total

/-- Floating-point add, multiply and fused multiply-add of patterns (R68, R80). -/
def FFmt.add (f : FFmt) (rm a b : Nat) : Nat × BitVec 7 := f.sum rm [(f.read a).term, (f.read b).term]
def FFmt.neg (f : FFmt) (a : Nat) : Nat := if a / 2 ^ (f.ebits + f.fbits) % 2 = 1 then a - f.signBit true else a + f.signBit true
def FFmt.sub (f : FFmt) (rm a b : Nat) : Nat × BitVec 7 :=
  match f.read b with
  | .nan => (f.nan, 0)
  | _ => f.add rm a (f.neg b)
def FFmt.mulR (f : FFmt) (rm a b : Nat) : Nat × BitVec 7 := f.sum rm [(f.read a).mul (f.read b)]
def FFmt.fma (f : FFmt) (rm a b c : Nat) : Nat × BitVec 7 := f.sum rm [(f.read a).mul (f.read b), (f.read c).term]

/-- Order of two values that are no NaN, zeros of either sign equal. -/
def FVal.lt (a b : FVal) : Bool :=
  match a, b with
  | .inf true, .inf true => false
  | .inf true, .fin .. => true
  | .inf true, .inf false => true
  | .fin .., .inf false => true
  | .fin n m e, .fin n' m' e' =>
    let k := min e e'
    let x : Int := (if n then -1 else 1) * ((m * 2 ^ (e - k).toNat : Nat) : Int)
    let y : Int := (if n' then -1 else 1) * ((m' * 2 ^ (e' - k).toNat : Nat) : Int)
    x < y
  | _, _ => false

def FVal.isNan : FVal → Bool
  | .nan => true
  | _ => false

/-- The sign of a value that is no NaN. -/
def FVal.isNeg : FVal → Bool
  | .inf n => n
  | .fin n _ _ => n
  | .nan => false

/-- VFMIN and VFMAX (R72): -0 is less than +0; one NaN yields the other operand. -/
def FFmt.minmax (f : FFmt) (isMax : Bool) (a b : Nat) : Nat :=
  let x := f.read a
  let y := f.read b
  if x.isNan && y.isNan then f.nan
  else if x.isNan then b
  else if y.isNan then a
  else
    let less := x.lt y || (!(y.lt x) && x.isNeg && !y.isNeg)
    if less != isMax then a else b

/-- Round an exact rational with sign to an integer in a mode; the flag says inexact (R70, R84). -/
def roundInt (rm : Nat) (neg : Bool) (num den : Nat) : Int × Bool :=
  let (n, rest) := roundMag rm neg num den 0
  (if neg then -(n : Int) else n, rest)

/-- Bounds of an integer type (R64). -/
def intMin (t : Tag) : Int := if tagSigned t then -(2 ^ (tagBits t - 1) : Nat) else 0
def intMax (t : Tag) : Int := if tagSigned t then (2 ^ (tagBits t - 1) : Nat) - 1 else (2 ^ tagBits t : Nat) - 1
def clampInt (lo hi i : Int) : Int := if i < lo then lo else if hi < i then hi else i

/-- An integer element's value (R64). -/
def readInt (t : Tag) (w : Nat) : Int :=
  let n := tagBits t
  if tagSigned t && w / 2 ^ (n - 1) % 2 = 1 then (w % 2 ^ n : Nat) - (2 ^ n : Nat) else (w % 2 ^ n : Nat)

/-- Low bits of an integer (R64). -/
def wrapInt (n : Nat) (i : Int) : Nat := (i % (2 ^ n : Nat)).toNat

/-- Split a number into `count` elements of `n` bits, lowest first. -/
def splitBits (n : Nat) : Nat → Nat → List Nat
  | 0, _ => []
  | count + 1, w => w % 2 ^ n :: splitBits n count (w / 2 ^ n)

/-- Join elements of `n` bits, lowest first. -/
def joinBits (n : Nat) : List Nat → Nat
  | [] => 0
  | x :: xs => x % 2 ^ n + 2 ^ n * joinBits n xs

end Sys2Proof.Machine
end

