-- ==== Sys2Proof/Machine/Array.lean ====
section
/-! DEFINITION. The ternary array: planes and the Shutter, passes, drains, the array queue, and the X-class syllables
(R138 to R162, R333, R397). -/

namespace Sys2Proof.Machine

/-! ### Planes (R75, R138, R139) -/

/-- Trit i of a t5 byte as a weight (R75). -/
def tritOf (b : Byte) (i : Nat) : Int :=
  match b.toNat / 3 ^ i % 3 with
  | 1 => 1
  | 2 => -1
  | _ => 0

/-- The 48 bytes of column n of a plane, K-rows 5j to 5j+4 in byte j (R139). -/
def Plane.column (p : Plane) (n : Nat) : List Byte :=
  if p.layout = 2 then (List.range 48).map (fun j => p.data.getD (64 * j + n) 0) else (p.data.drop (48 * n)).take 48

/-- One byte's part of a column sum: five K-rows (R83). -/
def byteDot (b : Byte) (acts : List Int) : Int :=
  tritOf b 0 * acts.getD 0 0 + tritOf b 1 * acts.getD 1 0 + tritOf b 2 * acts.getD 2 0 + tritOf b 3 * acts.getD 3 0 +
  tritOf b 4 * acts.getD 4 0

/-- The exact sum over the K-rows of a column (R83). -/
def columnSum : List Byte → List Int → Int
  | [], _ => 0
  | b :: bs, acts => byteDot b acts + columnSum bs (acts.drop 5)

/-- The 64 sums of a row; a plane that is not valid reads zero trits (R138). -/
def Plane.sums (p : Plane) (acts : List Int) : List Int :=
  (List.range 64).map (fun n => if p.valid then columnSum (p.column n) acts else 0)

/-! ### Activation rows (R82) -/

def rowBytes (afmt : BitVec 4) : Nat := if afmt = 13 then 120 else 240

/-- The exact integer of an e4m3 element; a NaN enters as 0 (R82). -/
def e4m3Int (b : Nat) : Int :=
  match e4m3Fmt.read b with
  | .fin n m e => (if n then -1 else 1) * ((m * 2 ^ (e + 9).toNat : Nat) : Int)
  | _ => 0

/-- The integers of a row and whether one of them was a NaN (R82). -/
def activations (afmt : BitVec 4) (bs : List Byte) : List Int × Bool :=
  if afmt = 13 then (bs.flatMap (fun b => [readInt 13 (b.toNat % 16), readInt 13 (b.toNat / 16)]), false)
  else if afmt = 11 then
    (bs.map (fun b => e4m3Int b.toNat), bs.any (fun b => (e4m3Fmt.read b.toNat).isNan))
  else (bs.map (fun b => readInt 1 b.toNat), false)

/-! ### Rows read and written (R83, R152) -/

/-- Bytes of X or Y as the array and a SEAL OPEN read them: those of a failed line are free values (R103; log 23). -/
def Core.arrayBytes (k : Core) (yspace : Bool) (a n : Nat) : List Byte :=
  if k.bufOk yspace a n then (k.buf yspace).bytes a n
  else (List.range n).map (fun i =>
    if k.bufOk yspace (a + i) 1 then (k.buf yspace).byte (a + i) else Config.failedByte yspace (a + i))

/-- A read of the array meets a line of X or Y that has failed: the array records it as the engines record theirs, and goes on with free
bytes (R103). R170 numbers no array among its engines: that byte is a free value (DESIGN CHOICE, log 23). -/
def State.arrayFails (s : State) (w : Who) (yspace : Bool) (a n : Nat) : State :=
  if (s.core w.core).bufOk yspace a n then s
  else
    let c := s.ctx w
    ({ s with free := s.free + 1 }).engineRecord ((c.task.map TaskInfo.part).getD (s.corePart w.core)) w
      ((Config.openValue s.free).toNat % 256) 0x0F 0 0 a c.taskId

/-- Read row i of a pass from X against the active plane (R152). -/
def Core.readRow (k : Core) (a : PassArgs) (i : Nat) : RowSums × Bool :=
  let addr := a.xaddr + i * a.stride
  let (acts, nan) := activations a.afmt (k.arrayBytes false addr (rowBytes a.afmt))
  (⟨i, k.active.sums acts, rangeSens k.xtags addr (rowBytes a.afmt)⟩, nan)

/-- One accumulator update and whether it saturated (R83). -/
def accumulate (acc : Bool) (old p : Int) : Int × Bool :=
  if acc then
    let t := old + p
    let r := clampInt (-2147483648) 2147483647 t
    (r, r != t)
  else (p, false)

/-- The bytes a Y row holds after its update, and the number of elements that saturated. -/
def updateRow (acc : Bool) : List Byte → List Int → List Byte × Nat
  | _, [] => ([], 0)
  | old, p :: ps =>
    let r := accumulate acc (readInt 5 (leNat (old.take 4))) p
    let rest := updateRow acc (old.drop 4) ps
    (leBytes 4 (wrapInt 32 r.1) ++ rest.1, r.2.toNat + rest.2)

/-- Write row sums to their Y row, whole (R83, R152): its tags, ACCSAT and the count of saturated elements. -/
def State.writeRow (s : State) (w : Who) (a : PassArgs) (r : RowSums) : State :=
  let addr := 256 * (a.y0 + r.row)
  let s := if a.acc then s.arrayFails w true addr 256 else s
  let k := s.core w.core
  let (bs, sat) := updateRow a.acc (k.arrayBytes true addr 256) r.sums
  let s := s.setCore w.core (k.putBuf true addr bs (fun _ l => l.written 5 0 (r.sens.max .ten)))
  (if sat = 0 then s else s.orFlags w flACC).perfWho w 13 sat

/-- Exchange the planes and their records (R153). -/
def Core.swap (k : Core) : Core := { k with active := k.shadow, shadow := k.active }

/-- One pass cycle of a lock-step pass: what cycle t + age of R152 does. -/
def State.passCycle (s : State) (core : Nat) (p : Pass) : State × Pass :=
  let w : Who := ⟨core, p.ctx⟩
  let sw := p.args.sw.toNat
  let s := if p.args.sw && p.age = 1 then s.modCore core Core.swap else s
  let (s, rows) :=
    if 1 + sw ≤ p.age && p.age < 1 + sw + p.args.rows then
      let s := s.arrayFails w false (p.args.xaddr + (p.age - 1 - sw) * p.args.stride) (rowBytes p.args.afmt)
      let (r, nan) := (s.core core).readRow p.args (p.age - 1 - sw)
      ((if nan then s.orFlags w flIV else s).perfWho w 8 1, p.rows ++ [r])
    else (s, p.rows)
  let (s, rows) :=
    if 6 + sw ≤ p.age then
      (match rows with
      | r :: rest => (s.writeRow w p.args r, rest)
      | [] => (s, rows))
    else (s, rows)
  (s, { p with age := p.age + 1, rows := rows })

/-- Advance the passes that a test selects by one pass cycle, in issue order; a pass whose last row is written ends. -/
def State.tickPasses (s : State) (core : Nat) (sel : Pass → Bool) : State :=
  let r := (s.core core).passes.foldl (fun (acc : State × List Pass) p =>
    if sel p then
      let (s, p) := acc.1.passCycle core p
      (s, if p.last < p.age then acc.2 else acc.2 ++ [p])
    else (acc.1, acc.2 ++ [p])) (s, [])
  r.1.modCore core (fun k => { k with passes := r.2 })

/-- A lock-step row is streamed in the next pass cycle of a pass (R39). -/
def Pass.streams (p : Pass) : Bool := 1 + p.args.sw.toNat ≤ p.age && p.age < 1 + p.args.sw.toNat + p.args.rows

/-! ### The Shutter (R148 to R151) -/

/-- The header bits that R140 requires to be zero, HVER and LAYOUT: the lowest header byte that breaks the rule (R148
check 4). -/
def headerFault (h : List Byte) (layout : BitVec 2) : Option Nat :=
  (List.range 128).find? (fun i =>
    let b := (h.getD i 0).toNat
    if i = 1 then b ≥ 32
    else if i = 4 then b != layout.toNat
    else if i = 5 then b != 1
    else if i = 15 then b != 0
    else if i = 6 || i = 7 || (28 ≤ i && i < 32) || 48 ≤ i then b != 0
    else false)

/-- A version that a key slot holds (R220). -/
def KeySlot.holds (k : KeySlot) (ver : Nat) : Bool := ver = k.ver.toNat || (k.pv && ver = k.pver.toNat)

/-- A model slot is granted to a tenant of a partition (R221). -/
def State.modelGranted (s : State) (part slot : Nat) (tenant : BitVec 13) : Bool :=
  let k := s.key slot
  k.ty = 3 && k.part.toNat = part && k.grants.contains tenant

/-- Check 1 of R148 on a header: the slot is a model slot granted to the tenant, at a version it holds. -/
def State.headerKeyOk (s : State) (part : Nat) (tenant : BitVec 13) (h : List Byte) : Bool :=
  let slot := leNat (h.take 2) % 8192
  s.modelGranted part slot tenant && (s.key slot).holds (leNat ((h.drop 2).take 2))

/-- The outcome of the Shutter's checks (R148) on a slot's header and ciphertext: the plane bytes, or a cause and the
TRAPVAL offset. `bad` says that a W read failed. -/
def shutterCheck (keyOk bad : Bool) (layout : BitVec 2) (bytes : List Byte) : Except (BitVec 8 × Nat) (List Byte) :=
  let h := bytes.take 128
  if !keyOk then .error (0x0E, 0)
  else
    let plain := if bad then none else
      Config.gcmOpen (leNat (h.take 2) % 8192) (leNat ((h.drop 2).take 2)) ((h.drop 16).take 12)
        (h.take 32 ++ h.drop 48) (bytes.drop 128) ((h.drop 32).take 16)
    match plain with
    | none => .error (0x0D, 32)
    | some ps =>
      match ps.findIdx? (fun b => b.toNat ≥ 243) with
      | some i => .error (0x0A, 128 + i)
      | none =>
        match headerFault h layout with
        | some o => .error (0x0B, o)
        | none => .ok ps

/-- A read of W meets a line that has failed (R103, R148). -/
def Core.wBad (k : Core) (a n : Nat) : Bool := (linesOf a n).any (fun l => k.wbad.contains l)

/-- Start a WLD: the header is read and the key slot looked up in its issue cycle (R149, R397); for a chained WLD that is the cycle in
which the Shutter takes it (DESIGN CHOICE, log 60). -/
def State.startWld (s : State) (w : Who) (slot : Nat) (layout : BitVec 2) (conf : Nat) : State :=
  let c := s.ctx w
  let h := (s.core w.core).w.bytes (3200 * slot) 128
  s.modCore w.core (fun k => { k with
    shutter := some ⟨w.ctx, slot, layout, 0, h, s.headerKeyOk c.part c.kslot h, k.wBad (3200 * slot) 128, conf⟩ })

/-- A W slot's bytes include a line that fails (R103, R148). -/
def Core.slotBad (k : Core) (slot : Nat) : Bool := k.wBad (3200 * slot) 3200

/-- The Shutter finishes (R149, R150): the shadow plane is replaced whole, or the failure becomes a report; MT falls. -/
def State.finishWld (s : State) (core : Nat) : State :=
  match (s.core core).shutter with
  | none => s
  | some x =>
    let w : Who := ⟨core, x.ctx⟩
    let s := s.modCore core (fun k => { k with shutter := none })
    let s :=
      match shutterCheck x.keyOk x.bad x.layout x.bytes with
      | .ok ps => (s.modCore core (fun k => { k with shadow := ⟨true, x.slot, x.layout, ps⟩ })).perfWho w 11 1
      | .error (c, o) => s.report w c (BitVec.ofNat 64 (x.slot * 65536 + o))
    s.modCtx w (fun c => c.drop .mt 1)

/-- One Shutter cycle (R149): 12 transfers of 256 bytes after the issue cycle, then the end before the next cycle. -/
def State.tickShutter (s : State) (core : Nat) : State :=
  match (s.core core).shutter with
  | none => s
  | some x =>
    let a := 3200 * x.slot + 128 + 256 * (x.age - 1)
    let reads := 1 ≤ x.age && x.age ≤ 12
    let more := if reads then (s.core core).w.bytes a 256 else []
    let s := s.modCore core (fun k => { k with
      shutter := some { x with age := x.age + 1, bytes := x.bytes ++ more, bad := x.bad || (reads && k.wBad a 256) } })
    if x.age + 1 = 13 then s.finishWld core else s

/-- The next Shutter cycle is a transfer (R39). -/
def Core.shutterTransfers (k : Core) : Bool := k.shutter.any (fun x => 1 ≤ x.age && x.age ≤ 12)

/-! ### The array queue (R154, R155, R158, R159) -/

/-- A command of the queue is complete: it leaves and MT falls. -/
def State.popArray (s : State) (core ctx : Nat) : State :=
  (s.modCore core (fun k => { k with queue := k.queue.drop 1 })).modCtx ⟨core, ctx⟩ (fun c => c.drop .mt 1)

/-- Replace the command at the head of the array queue. -/
def State.setHead (s : State) (core : Nat) (e : ArrEntry) (c : ArrCmd) : State :=
  s.modCore core (fun k => { k with queue := { e with cmd := c } :: k.queue.drop 1 })

/-- A row is dropped in skip mode: all its elements enter as 0 and none is a NaN (R155). -/
def rowDropped (a : PassArgs) (k : Core) (i : Nat) : Bool :=
  let (acts, nan) := activations a.afmt (k.arrayBytes false (a.xaddr + i * a.stride) (rowBytes a.afmt))
  a.skip && !nan && acts.all (fun x => x = 0)

/-- Handle one row of an asynchronous pass (R155): a dropped row leaves its Y row under `.acc` and zeroes it under `.ov`. -/
def State.asyncRow (s : State) (w : Who) (a : PassArgs) (i : Nat) : State × Bool :=
  let s := s.arrayFails w false (a.xaddr + i * a.stride) (rowBytes a.afmt)
  let k := s.core w.core
  if rowDropped a k i then
    let s := s.perfWho w 10 1
    if a.acc then (s, true)
    else (s.writeRow w a ⟨i, List.replicate 64 0, rangeSens k.xtags (a.xaddr + i * a.stride) (rowBytes a.afmt)⟩, true)
  else
    let (r, nan) := k.readRow a i
    (((if nan then s.orFlags w flIV else s).perfWho w 9 1).writeRow w a r, false)

/-- The cycles of a pass before its first row is written (R152, R155): its swap and its fill. -/
def PassArgs.fill (a : PassArgs) : Nat := 5 + a.sw.toNat

/-- Drop the rows of the pass at the head from row i on while they are dropped rows, which cost no cycle (R155), and complete the pass
where no row is left. -/
def State.dropRows (s : State) (w : Who) (e : ArrEntry) (a : PassArgs) (i : Nat) : Nat → State
  | 0 => s.popArray w.core e.ctx
  | n + 1 =>
    if rowDropped a (s.core w.core) i then (s.asyncRow w a i).1.dropRows w e a (i + 1) n
    else s.setHead w.core e (.pass a a.fill i)

/-- One cycle of the array queue's head (R154, R155, R159): a WLD passes to a free Shutter; a pass waits for the lock-step
passes and, with `.sw`, for a free Shutter, swaps, fills, and streams one kept row per cycle. -/
def State.tickQueue (s : State) (core : Nat) : State :=
  let k := s.core core
  match k.queue with
  | [] => s
  | e :: _ =>
    let w : Who := ⟨core, e.ctx⟩
    match e.cmd with
    | .wld slot layout =>
      if k.shutter.isNone then (s.modCore core (fun k => { k with queue := k.queue.drop 1 })).startWld w slot layout e.conf else s
    | .drain .. => s
    | .pass a prep next =>
      if !k.passes.isEmpty then s
      else if a.sw && prep = 0 then
        (if k.shutter.isSome then s else (s.modCore core Core.swap).setHead core e (.pass a 1 next))
      else if prep + 1 < a.fill then s.setHead core e (.pass a (prep + 1) next)
      else if prep < a.fill then s.dropRows w e a next (a.rows - next)
      else if a.rows ≤ next then s.popArray core e.ctx
      else (s.asyncRow w a next).1.dropRows w e a (next + 1) (a.rows - (next + 1))

/-- An asynchronous pass streams a row in the next cycle (R39). -/
def Core.asyncStreams (k : Core) : Bool :=
  k.passes.isEmpty && (match k.queue with
    | { cmd := .pass a prep _, .. } :: _ => a.fill ≤ prep
    | _ => false)

/-- The head of the queue is a pass, which waits for the lock-step passes in flight (R154). -/
def Core.asyncHead (k : Core) : Bool := match k.queue with
  | { cmd := .pass .., .. } :: _ => true
  | _ => false

/-- The pass at the head of the queue streams to its end (R155, SKIP_PASS): until the queue holds fewer than `len` commands. -/
def State.runPass (s : State) (core len : Nat) : Nat → State
  | 0 => s
  | n + 1 =>
    match (s.core core).queue with
    | { cmd := .pass .., .. } :: rest => if rest.length + 1 = len then (s.tickQueue core).runPass core len n else s
    | _ => s

/-- An asynchronous pass of the core is queued or streaming (R154). -/
def Core.asyncPass (k : Core) : Bool := k.queue.any (fun e => match e.cmd with
  | .pass .. => true
  | _ => false)

/-- The Shutter holds a WLD or a chained WLD waits in the queue (R151, R153). -/
def Core.shutterBusy (k : Core) : Bool :=
  k.shutter.isSome || k.queue.any (fun e => match e.cmd with
    | .wld .. => true
    | _ => false)

/-- Another context owns the array in a lock-step pass (R34). -/
def Core.ownedByOther (k : Core) (x : Nat) : Bool := k.passes.any (fun p => p.ctx != x % 4)

/-- The context owns the array in a pass with forwarding that still has rows to show (R35). -/
def Core.ownsForwarding (k : Core) (x : Nat) : Bool := k.passes.any (fun p => p.ctx = x % 4 && p.fwd)

/-! ### Drains (R84, R85, R158) -/

/-- The signed dyadic of a finite bf16 scale. -/
def scaleDyadic (w : BitVec 16) : Bool × Dyadic :=
  match bf16Fmt.read w.toNat with
  | .fin n m e => (n, ⟨(if n then -1 else 1) * (m : Int), e⟩)
  | _ => (false, ⟨0, 0⟩)

/-- One drained element and its flags (R84). -/
def drainElem (a : DrainArgs) (acc : Int) (cs rs : BitVec 16) : Nat × BitVec 7 :=
  let t := a.cfg.dfmt
  let rm := a.frm.toNat % 4
  if acc = 0 then (0, 0)
  else
    let (cn, c) := scaleDyadic cs
    let (rn, r) := scaleDyadic rs
    let e : Int := (if a.cfg.afmt = 11 then -9 else 0) + a.shift
    let x := (Dyadic.mul (Dyadic.mul ⟨acc, 0⟩ c) r).mul ⟨1, e⟩
    let neg := (acc < 0) != (cn != rn)
    match ffmt t with
    | some f => if x.i = 0 then (f.signBit neg, 0) else f.roundDyadic rm (a.frm.getLsbD 2) x
    | none =>
      let m := x.i.natAbs
      let (i, rest) := roundInt rm neg (if 0 ≤ x.e then m * 2 ^ x.e.toNat else m) (if 0 ≤ x.e then 1 else 2 ^ (-x.e).toNat)
      let o := clampInt (intMin t) (intMax t) i
      (wrapInt (tagBits t) o, (if rest || o != i then flNX else 0) ||| (if o != i then flSAT else 0))

/-- The elements of an output row. -/
def drainRow (a : DrainArgs) (j : Nat) : Nat → List Byte → List Nat × BitVec 7
  | _, [] => ([], 0)
  | n, b0 :: b1 :: b2 :: b3 :: bs =>
    let (x, f) := drainElem a (readInt 5 (leNat [b0, b1, b2, b3])) (a.cfg.cs.toList.getD n 0) (a.cfg.rs.toList.getD j 0)
    let (xs, g) := drainRow a j (n + 1) bs
    (x :: xs, f ||| g)
  | _, _ => ([], 0)

/-- Drain one row of the MDRN at the head of the queue (R158); the last row ORs its flags and completes it. -/
def State.drainStep (s : State) (core : Nat) : State :=
  match (s.core core).queue with
  | [] => s
  | e :: _ =>
    match e.cmd with
    | .drain a j fl =>
      let w : Who := ⟨core, e.ctx⟩
      let y := a.y0 + j
      let s := s.arrayFails w true (256 * y) 256
      let k := s.core core
      let (xs, f) := drainRow a j 0 (k.arrayBytes true (256 * y) 256)
      let width := tagBits a.cfg.dfmt / 8
      let bs := xs.flatMap (leBytes width)
      let sens := ((k.ytags.get LineTag.reset y).sens).max a.cfg.scaleSens
      let s := s.setCore core (k.putBuf false (a.xaddr + j * a.stride) bs (fun _ l => l.written a.cfg.dfmt 0 sens))
      let s := s.perfWho w 12 1
      if a.rows ≤ j + 1 then (s.orFlags w (fl ||| f)).popArray core e.ctx
      else s.setHead core e (.drain a (j + 1) (fl ||| f))
    | _ => s

/-! ### Checks at issue (R142 to R145) -/

/-- The outcome of capturing a matrix command: the command, or a trap. -/
inductive Capture where
  | ok (c : ArrCmd)
  | trap (cause : BitVec 8) (val : Word)

/-- Items 2 to 4 of R145 for the rows of a pass or drain: X rows, Y rows and alignment. R145 asks for "the register value or address
concerned": for rows that leave X it is the register value, whichever row leaves (DESIGN CHOICE, log 61). -/
def checkRows (ga gb : Word) (rows stride size align : Nat) : Option (BitVec 8 × Word) :=
  if xLen < ga.toNat + (rows - 1) * stride + size then some (0x06, ga)
  else if 512 < gb.toNat + rows then some (0x06, gb)
  else if ga.toNat % align != 0 then some (0x07, ga)
  else none

/-- Capture an MMS (R144, R147). -/
def captureMms (cfg : ArrayCfg) (m : BitVec 5) (ga gb gc : Word) : Except (BitVec 8 × Word) PassArgs :=
  let rows := bitsOf gc.toNat 0 10
  let stride := bitsOf gc.toNat 16 16
  if ga.toNat ≥ 262144 then .error (0x08, ga)
  else if gb.toNat ≥ 512 then .error (0x08, gb)
  else if bitsOf gc.toNat 10 6 != 0 || gc.toNat ≥ 4294967296 || rows = 0 || rows > 512 || stride % 8 != 0 then
    .error (0x08, gc)
  else
    match checkRows ga gb rows stride (rowBytes cfg.afmt) 8 with
    | some e => .error e
    | none => .ok ⟨ga.toNat, stride, rows, gb.toNat, cfg.afmt, m.getLsbD 0, m.getLsbD 1, m.getLsbD 2⟩

/-- Capture an MDRN (R144, R147). -/
def captureMdrn (cfg : ArrayCfg) (frm : BitVec 3) (ga gb gc : Word) : Except (BitVec 8 × Word) DrainArgs :=
  let rows := bitsOf gc.toNat 0 7
  let stride := bitsOf gc.toNat 16 16
  let size := 64 * (tagBits cfg.dfmt / 8)
  if ga.toNat ≥ 262144 then .error (0x08, ga)
  else if gb.toNat ≥ 512 then .error (0x08, gb)
  else if bitsOf gc.toNat 7 9 != 0 || bitsOf gc.toNat 32 8 != 0 || gc.toNat ≥ 70368744177664 || rows = 0 || rows > 64 ||
      stride % size != 0 then .error (0x08, gc)
  else
    match checkRows ga gb rows stride size size with
    | some e => .error e
    | none =>
      let sh := bitsOf gc.toNat 40 6
      .ok ⟨ga.toNat, stride, rows, gb.toNat, if sh ≥ 32 then (sh : Int) - 64 else sh, cfg, frm⟩

/-- Capture a WLD's slot register (R398). -/
def captureWld (ga : Word) : Except (BitVec 8 × Word) Nat := if ga.toNat ≥ 64 then .error (0x08, ga) else .ok ga.toNat

/-- Capture the command that a CPYX carries (R160, R169): registers, configuration and scales, with R145 items 1 to 4. -/
def captureChained (c : Ctx) (i : Instr) (word : Word) : Except (BitVec 8 × Word) (List Word × BitVec 5 × ArrCmd) :=
  match i with
  | .wld _ a => (captureWld (c.gv a)).map (fun s => ([c.gv a], 0, .wld s c.cfg.layout))
  | .mms _ a b d m =>
    (captureMms c.cfg m (c.gv a) (c.gv b) (c.gv d)).map (fun p => ([c.gv a, c.gv b, c.gv d], m, .pass p 0 0))
  | .mdrn _ a b d =>
    (captureMdrn c.cfg c.frm (c.gv a) (c.gv b) (c.gv d)).map (fun p => ([c.gv a, c.gv b, c.gv d], 0, .drain p 0 0))
  | _ => .error (0x08, word)

/-- An X-slot syllable blocks while another context owns the array (R30, R34). -/
def State.withArray (s : State) (f : State → Out) : Out :=
  if (s.core s.issue.core).ownedByOther s.issue.ctx then s.blockOn .arrayOwned else f s

/-- The FRM and array configuration that a matrix command captures, as R213 records them. -/
def Ctx.conf (c : Ctx) : Nat :=
  (c.frm.toNat + c.cfg.afmt.toNat * 2 ^ 8 + c.cfg.dfmt.toNat * 2 ^ 12 + c.cfg.layout.toNat * 2 ^ 16)

/-- Put a direct command into the array queue; a full queue blocks (R159). -/
def State.enqueueArray (s : State) (e : ArrEntry) : Out :=
  .next ((s.modCore s.issue.core (fun k => { k with queue := k.queue ++ [e] })).modCur (fun c => c.bump .mt 1))

def State.arrayRoom (s : State) (f : State → Out) : Out :=
  if (s.core s.issue.core).queue.length ≥ 8 then s.blockOn (.queue .array) else f s

/-! ### The X-class syllables -/

/-- WLD (R148 to R151, R397, R398). -/
def execWld (gd : Guard) (a : BitVec 5) (s : State) : Out :=
  s.guarded gd fun s => s.withArray fun s =>
    if (s.core s.issue.core).shutterBusy then s.blockOn .shutter
    else s.roomFor .mt 1 fun s =>
      match captureWld (s.gw a) with
      | .error (c, v) => s.raise c v
      | .ok slot => .next ((s.startWld s.who slot s.cur.cfg.layout s.cur.conf).modCur (fun c => c.bump .mt 1))

/-- A lock-step MMS whose context's previous lock-step pass has not reached its read cycle E (R152). -/
def Core.passOverlaps (k : Core) (x : Nat) : Bool := k.passes.any (fun p => p.ctx = x % 4 && p.age < p.readEnd)

/-- MMS (R143, R152 to R156). -/
def execMms (gd : Guard) (a b c m : BitVec 5) (s : State) : Out :=
  s.guarded gd fun s => s.withArray fun s =>
    let k := s.core s.issue.core
    if m.getLsbD 1 && k.shutterBusy then s.blockOn .shutter
    else if m.getLsbD 2 then
      s.arrayRoom fun s => s.roomFor .mt 1 fun s =>
        match captureMms s.cur.cfg m (s.gw a) (s.gw b) (s.gw c) with
        | .error (cause, v) => s.raise cause v
        | .ok args => s.enqueueArray ⟨s.issue.ctx, false, [s.gw a, s.gw b, s.gw c], m, s.cur.conf, .pass args 0 0⟩
    else if k.asyncPass then s.blockOn .asyncPass
    else
      match captureMms s.cur.cfg m (s.gw a) (s.gw b) (s.gw c) with
      | .error (cause, v) => s.raise cause v
      | .ok args =>
        if k.passOverlaps s.issue.ctx then s.raise 0x08 s.sylWord
        else
          .next (s.modCore s.issue.core (fun k => { k with
            passes := k.passes ++ [⟨s.issue.ctx % 4, s.cur.priv, args, m.getLsbD 3, 0, []⟩] }))

/-- MDRN (R158, R159). -/
def execMdrn (gd : Guard) (a b c : BitVec 5) (s : State) : Out :=
  s.guarded gd fun s => s.withArray fun s => s.arrayRoom fun s => s.roomFor .mt 1 fun s =>
    match captureMdrn s.cur.cfg s.cur.frm (s.gw a) (s.gw b) (s.gw c) with
    | .error (cause, v) => s.raise cause v
    | .ok args => s.enqueueArray ⟨s.issue.ctx, false, [s.gw a, s.gw b, s.gw c], 0, s.cur.conf, .drain args 0 0⟩

/-- A bf16 pattern is an infinity or a NaN. -/
def bf16NonFinite (w : Nat) : Bool := w / 128 % 256 = 255

/-- Sixty-four scales (R146). -/
def scaleVec (ws : List Nat) : Vector (BitVec 16) 64 :=
  ⟨⟨(List.range 64).map (fun i => BitVec.ofNat 16 (ws.getD i 0))⟩, by simp⟩

/-- MSCL (R145, R146): its line is read in its issue cycle, ahead of any engine. -/
def execMscl (gd : Guard) (a : BitVec 5) (s : State) : Out :=
  s.guarded gd fun s => s.withArray fun s => s.roomFor .mt 1 fun s =>
    let k := s.core s.issue.core
    let ga := s.gw a
    let n := ga.toNat
    let tag := k.xtags.get LineTag.reset (n / 256)
    let ws := splitBits 16 128 (leNat (k.arrayBytes false n 256))
    if n ≥ 262144 then s.raise 0x08 ga
    else if xLen < n + 256 then s.raise 0x06 ga
    else if n % 256 != 0 then s.raise 0x07 ga
    else if tag.fmt != 0 && tag.fmt != 8 then s.raise 0x04 ga
    else
      match ws.findIdx? bf16NonFinite with
      | some i => s.raise 0x0C (BitVec.ofNat 64 (n + 2 * i))
      | none =>
        .next ((s.arrayFails s.who false n 256).modCur (fun c => { c with cfg := { c.cfg with
          cs := scaleVec ws
          rs := scaleVec (ws.drop 64)
          scaleSens := tag.sens } }))

/-- The configuration that an MCFG register holds is legal (R144). -/
def mcfgLegal (n : Nat) : Bool :=
  let af := bitsOf n 0 4
  let df := bitsOf n 4 4
  let ly := bitsOf n 8 2
  n < 1024 && (af = 1 || af = 13 || af = 11) && (df = 8 || df = 9 || df = 10 || df = 11 || df = 1 || df = 5) &&
  (ly = 1 || ly = 2)

/-- MCFG (R144, R146, R335). -/
def execMcfg (gd : Guard) (a : BitVec 5) (s : State) : Out :=
  s.guarded gd fun s => s.withArray fun s => s.roomFor .mt 1 fun s =>
    let ga := s.gw a
    if mcfgLegal ga.toNat then
      .next (s.modCur (fun c => { c with cfg := { c.cfg with
        afmt := ga.extractLsb' 0 4, dfmt := ga.extractLsb' 4 4, layout := ga.extractLsb' 8 2 } }))
    else s.raise 0x08 ga

/-! ### Array events -/

/-- SHUTTER_COMPLETE: a WLD whose 13 cycles have passed ends (R149, R150). -/
def execShutterComplete (core : Nat) (s : State) : Out :=
  s.onClock core fun s => if (s.core core).shutter.any (fun x => 13 ≤ x.age) then .next (s.finishWld core) else .next s

/-- The context's task issues nothing more: END has issued, or the task is being terminated or gone; its passes advance in
every core cycle that is not frozen (R34; log 13 for termination). -/
def Ctx.spent (c : Ctx) : Bool := c.ending.isSome || c.terminating.isSome || c.task.isNone

/-- PASS_ROW: one pass cycle of the passes whose issuing context has issued END; those of other contexts advance in
their own active cycles (R34, R152). -/
def execPassRow (core : Nat) (s : State) : Out :=
  s.onClock core fun s => .next (s.tickPasses core (fun p => ((s.core core).ctx p.ctx).spent))

/-- SKIP_PASS: the asynchronous pass at the head of the queue streams its rows, where it can start (R154, R155). -/
def execSkipPass (core : Nat) (s : State) : Out :=
  s.onClock core fun s => .next (s.runPass core (s.core core).queue.length 520)

/-- DRAIN_ROW: the MDRN at the head of the queue drains its next row (R158). -/
def execDrainRow (core : Nat) (s : State) : Out := s.onClock core fun s => .next (s.drainStep core)

end Sys2Proof.Machine
end

