-- ==== Sys2Proof/Machine/Flows.lean ====
section
/-! DEFINITION. Flows to other dies and packages, and what crosses the links between dies, packages and the host (R136, R137, R222, R227,
R246, R267 to R269). -/

namespace Sys2Proof.Machine

/-! ### What a link carries (R222, R227, R269) -/

/-- The number of the I/O die among the ends of a link. -/
def ioDie : Nat := 4

/-- The links that traffic crosses from one die to another (R269): link 5 a + b carries flits from die a to die b; diagonal traffic goes
through the source's row neighbour, or its column neighbour where that one is absent. -/
def State.route (s : State) (a b : Nat) : List Nat :=
  let link (x y : Nat) : Nat := 5 * x + y
  if a = b then []
  else if a = ioDie || b = ioDie || a ^^^ b != 3 then [link a b]
  else
    let mid := if s.diePresent (a ^^^ 1) then a ^^^ 1 else a ^^^ 2
    [link a mid, link mid b]

/-- The numbers of the links that leave the package, in each direction: the UALink ports and the CXL port. -/
def portLink (out : Bool) (port : Nat) : Nat := (if out then 32 else 40) + port
def cxlLink (out : Bool) : Nat := if out then 64 else 65

/-- A flit as it crosses a link: its bytes under AES-256-GCM, and its tag. -/
def flitOnWire (key : Nat × Nat) (number : Nat) (bytes : List Byte) : List Byte × BitVec 64 :=
  let c := bytes.zipIdx.map (fun b => b.1 ^^^ Config.flitStreamByte key number b.2)
  (c, Config.flitTag key number c)

/-- A flit crosses a link under a key that lasts for the boot. It takes as its number how many flits went under the key before it; that,
and that a transfer is one flit, is DESIGN CHOICE, log 74. -/
def State.crossLink (key : Nat × Nat) (bytes : List Byte) (s : State) (link : Nat) : State :=
  let l := s.links.get Link.reset link
  { s with
    links := s.links.set link { l with flits := l.flits + 1 }
    wire := s.wire.set link (flitOnWire key l.flits bytes) }

/-- A flit crosses a UCIe link under the per-boot key of its direction (R227). -/
def State.crossDie (bytes : List Byte) (s : State) (link : Nat) : State := s.crossLink (65536 + s.boots, link) bytes link

/-- A flit crosses a port under the key of a link slot (R227, R246). -/
def State.crossPort (s : State) (bytes : List Byte) (link slot : Nat) : State :=
  { s.modKey slot (fun k => { k with flits := k.flits + 1 }) with
    wire := s.wire.set link (flitOnWire (slot, (s.key slot).ver.toNat) (s.key slot).flits bytes) }

/-- Traffic of an interface crosses the CXL port in its selective stream (R227, R260). The keys that a stream has before any IDE_KM are
not given: they are keys of its own (DESIGN CHOICE, log 90). -/
def State.crossCxl (s : State) (iface : Nat) (out : Bool) (bytes : List Byte) : State :=
  match (s.iface iface).link with
  | some l => s.crossPort bytes (cxlLink out) (if out then l.1 else l.2)
  | none => s.crossLink (32768 + iface, s.boots) bytes (cxlLink out)

/-- The interface in whose stream a partition's host memory and window traffic goes: its first one, or 256 where it has none. No rule says
which stream that is (DESIGN CHOICE, log 90). -/
def State.streamOf (s : State) (part : Nat) : Nat :=
  ((List.find? (fun (f : Nat × Iface) => f.2.st != 0 && f.2.part.toNat = part) s.ifaces).map Prod.fst).getD 256

/-- The link slot under which a package's flits come in: the second one of the last agreement with it (R246). -/
def State.peerSlot (s : State) (pkg : Nat) : Nat := (s.peerLinks.get (0, 0) pkg).2

/-- Bytes of a partition cross what lies between a die and another package. -/
def State.carryPeer (s : State) (part die pkg : Nat) (out : Bool) (bytes : List Byte) : State :=
  let e := s.flowEntry part pkg
  ((if out then s.route die ioDie else s.route ioDie die).foldl (State.crossDie bytes) s).crossPort bytes (portLink out (bitsOf e 59 3))
    (if out then bitsOf e 32 13 else s.peerSlot pkg)

/-- Bytes cross what lies between two dies. -/
def State.carryDie (s : State) (a b : Nat) (bytes : List Byte) : State := (s.route a b).foldl (State.crossDie bytes) s

/-- Bytes of a partition cross what lies between a die and the home of an address: out to it, or back (R222, R227). -/
def State.carry (s : State) (part die : Nat) (p : Place) (a : Nat) (out : Bool) (bytes : List Byte) : State :=
  match p with
  | .hbm =>
    let far := sliceDie (s.sliceOf a)
    if out then s.carryDie die far bytes else s.carryDie far die bytes
  | .host => (if out then s.carryDie die ioDie bytes else s.carryDie ioDie die bytes).crossCxl (s.streamOf part) out bytes
  | .peer k => s.carryPeer part die k out bytes
  | .s _ => s

/-- The same for a counter's home. -/
def State.carryCtr (s : State) (part die : Nat) (k : CtrKey) (out : Bool) (bytes : List Byte) : State :=
  match k with
  | .cistern d _ => if out then s.carryDie die d bytes else s.carryDie d die bytes
  | .sword _ _ => s
  | .memory p a => s.carry part die p a out bytes

/-- The operands that an atomic, a RED or a CASL sends; a load or a counter read sends no data. -/
def State.operands (s : State) (w : Who) (id : Nat) : List Byte :=
  ((s.ctx w).ops.filter (fun o => o.id = id)).flatMap (fun o => match o.kind with
    | .red _ _ _ _ v => leBytes 8 v.toNat
    | .amo _ _ _ _ v _ => leBytes 8 v.toNat
    | .cas _ _ _ e v _ _ => leBytes 8 e.toNat ++ leBytes 8 v.toNat
    | .casl _ _ _ e v h a _ _ _ _ => leBytes 8 e.toNat ++ leBytes 8 v.toNat ++ leBytes 8 h.toNat ++ leBytes 8 a.toNat
    | _ => [])

/-- The data that an item of a flow carries out. -/
def State.payload (s : State) : FlowItem → List Byte
  | .load w id => s.operands w id
  | .red w id => s.operands w id
  | .fill .. => []
  | .advance rel => ((s.advances.filter (fun a => a.rel = rel)).map (fun a => leBytes 8 a.amount)).flatten
  | .coll _ _ _ _ _ _ bytes => bytes
  | .store _ t => t.bytes

/-! ### Flows (R136, R137, R267) -/

/-- The destination of a context's traffic to a home (R136): a peer package by its number, another die of this package as 1,024 and its
number; none where it travels on no flow. A Pump's accesses are no context's. -/
def State.destOf (s : State) (w : Who) (p : Place) (a : Nat) : Option Nat :=
  match p with
  | .peer k => some k
  | .hbm => if w.ctx < 4 && sliceDie (s.sliceOf a) != dieOf w.core then some (1024 + sliceDie (s.sliceOf a)) else none
  | _ => none

/-- The destination of an access to a counter (R136). -/
def State.ctrDest (s : State) (w : Who) (k : CtrKey) : Option Nat :=
  match k with
  | .cistern d _ => if w.ctx < 4 && d != dieOf w.core then some (1024 + d) else none
  | .sword _ _ => none
  | .memory p a => s.destOf w p a

/-- The flow of a context's traffic to a destination, under the partition whose table it follows (R136, R267, R268). -/
def flowKey (w : Who) (part dest : Nat) : Nat := (part * 2048 + dest) * 4096 + 4 * w.core + w.ctx % 4

/-- The partition, the destination and the source core of a flow. -/
def flowPart (key : Nat) : Nat := key / (2048 * 4096)
def flowDest (key : Nat) : Nat := key / 4096 % 2048
def flowCore (key : Nat) : Nat := key % 4096 / 4

/-- A flow as it stands; one to a package that is created takes the mode of the partition's flow table, and one to a die is ordered (R136,
R268). -/
def State.flowOf (s : State) (w : Who) (part dest : Nat) : Flow :=
  s.flows.get { Flow.reset with unordered := dest < 1024 && bitsOf (s.flowEntry part dest) 62 1 = 1 } (flowKey w part dest)

/-- Put an item on its flow, with the next sequence number (R136). -/
def State.enqueueFlow (s : State) (w : Who) (part dest : Nat) (i : FlowItem) : State :=
  let f := s.flowOf w part dest
  { s with flows := s.flows.set (flowKey w part dest) { f with next := f.next + 1, items := f.items ++ [(f.next.toNat, i)] } }

/-- Traffic that is performed as it is sent may travel: on an ordered flow it follows everything that has been sent, and what carries a
release or an advance does so on any flow (R137). -/
def State.flowTurn (s : State) (w : Who) (part dest : Nat) (release : Bool) : Bool :=
  let f := s.flowOf w part dest
  f.items.isEmpty || (f.unordered && !release)

/-- The same of data that has a destination or none. -/
def State.mayTravel (s : State) (w : Who) (part : Nat) (dest : Option Nat) : Bool := dest.all (fun d => s.flowTurn w part d false)

/-- The advance that completes an engine command may travel to its counter (R136, R137). -/
def State.advanceMayTravel (s : State) (w : Who) (part : Nat) (c : Completion) : Bool :=
  (s.ctrDest w c.key).all (fun d => s.flowTurn w part d true)

/-- Traffic that is performed as it is sent takes the next sequence number of its flow and is delivered with it (R136, R267). -/
def State.flowSend (s : State) (w : Who) (part : Nat) (dest : Option Nat) : State :=
  match dest with
  | some k =>
    let f := s.flowOf w part k
    { s with flows := s.flows.set (flowKey w part k) { f with
        next := f.next + 1, delivered := if f.unordered then f.delivered ++ [f.next.toNat] else f.delivered } }
  | none => s

/-- An access of a context to a home that is performed as it is sent: its place in its flow, and its bytes on the links. -/
def State.sendTo (s : State) (w : Who) (part : Nat) (p : Place) (a : Nat) (bytes : List Byte) : State :=
  (s.flowSend w part (s.destOf w p a)).carry part (dieOf w.core) p a true bytes

/-- The same of an advance. -/
def State.sendAdvance (s : State) (w : Who) (part : Nat) (k : CtrKey) (amount : Nat) : State :=
  (s.flowSend w part (s.ctrDest w k)).carryCtr part (dieOf w.core) k true (leBytes 8 amount)

/-- Item i of a flow leaves it, delivered: it crosses the links to its destination. -/
def State.popFlow (s : State) (key i : Nat) : State :=
  let f := s.flows.get Flow.reset key
  match f.items[i]? with
  | none => s
  | some (n, item) =>
    let bytes := s.payload item
    let s := { s with flows := s.flows.set key { f with
        items := f.items.eraseIdx i, delivered := if f.unordered then f.delivered ++ [n] else f.delivered } }
    let die := dieOf (flowCore key)
    if flowDest key < 1024 then s.carryPeer (flowPart key) die (flowDest key) true bytes else s.carryDie die (flowDest key - 1024) bytes

/-- The item carries a release or a counter advance: it waits for every earlier-numbered one (R137). -/
def State.carriesRelease (s : State) : FlowItem → Bool
  | .load w id => ((s.ctx w).ops.find? (fun o => o.id = id)).any (fun o => o.rel.isSome)
  | .red w id => ((s.ctx w).ops.find? (fun o => o.id = id)).any (fun o => o.rel.isSome)
  | .advance _ => true
  | .store _ _ => false
  | .fill .. => false
  | .coll .. => false

/-- An item may leave each flow that it travels on: the oldest of an ordered flow, any of an unordered one but for what carries a release
(R137). -/
def State.flowReady (s : State) (i : FlowItem) : Bool :=
  s.flows.all (fun f => f.2.items.zipIdx.all (fun x =>
    x.1.2 != i || x.2 = 0 || (f.2.unordered && !s.carriesRelease i)))

/-- An item leaves its flows. -/
def State.leaveFlows (s : State) (i : FlowItem) : State :=
  s.flows.foldl (fun (u : State) f => match f.2.items.findIdx? (fun x => x.2 = i) with
    | some n => u.popFlow f.1 n
    | none => u) s

end Sys2Proof.Machine
end

