-- ==== Sys2Proof/Machine/Copy.lean ====
section
/-! DEFINITION. Copies: what an engine reads and writes, channels, completion and failure (R133, R134, R163 to R170, R312
to R314). -/

namespace Sys2Proof.Machine

/-- A miss sends an ATS request; one for a page that has a request outstanding joins it, which then asks for what either needs and answers
both (R216, R217); beyond 512 it waits its turn. A request counts among the 512 until it is answered, in its page-request phase too (DESIGN
CHOICE, log 95). -/
def State.requestAts (s : State) (ask : Asker) (die : Nat) (m : Miss) : State :=
  let d := s.die die
  let same (r : AtsReq) : Bool := r.miss.pasid = m.pasid && r.miss.page = m.page && !r.stale
  let join (r : AtsReq) : AtsReq :=
    { r with
      miss := { r.miss with write := r.miss.write || m.write }
      askers := if r.askers.contains ask then r.askers else r.askers ++ [ask] }
  if d.ats.any same then
    s.modDie die (fun d => { d with ats := d.ats.map (fun r => if same r then join r else r) })
  else if d.ats.length ≥ 512 then s
  else (s.modDie die (fun d => { d with ats := d.ats ++ [⟨m, false, false, [ask]⟩] })).perfAdd m.pasid 19 1

/-- The issuing context asks for what misses, and blocks (R216, R217). -/
def State.blockMiss (s : State) (ms : List Miss) : Out :=
  (ms.foldl (fun (u : State) m => u.requestAts (.slot s.who) (dieOf s.issue.core) m) s).blockOn (.translation ms)

/-! ### Engine accesses -/

/-- What an engine access comes to. -/
inductive Eng (α : Type) where
  | ok (v : α) (s : State)
  | wait (s : State)
  | fail (cause addr : Nat) (s : State)

/-- The context an engine works for, with what its command captured (R52, R133). -/
structure EngCtx where
  who : Who
  part : Nat
  hashKey : Word
  own : List Store
  vis : List Nat
  born : Nat

/-- An engine as one who waits for a translation (R217). -/
def EngCtx.ask (e : EngCtx) : Asker := .engine e.who e.born

/-- Reach a global address for an engine (R97, R100, R170, R217): misses wait, denials and refusals fail, and traffic to another die
or package waits for its turn in the flow of the issuing context (R267). -/
def State.engineReach (s : State) (e : EngCtx) (write : Bool) (sens : Sens) (va : Nat) : Eng (Place × Nat) :=
  let die := dieOf e.who.core
  if va / 2 ^ 56 != 0 then .fail 0x10 va s
  else
    match s.lookup e.ask die e.part va write with
    | .miss m => .wait (s.requestAts e.ask die m)
    | .denied => .fail 0x10 va (s.forgetDenial e.ask die e.part)
    | .hit p a =>
      match s.refusal e.who.core e.part (if write then .engineWrite else .engineRead) sens p a with
      | some c => .fail c.toNat va s
      | none => if s.mayTravel e.who e.part (s.destOf e.who p a) then .ok (p, a) s else .wait s

/-- Read bytes that lie in one line, for an engine: the bytes and their sensitivity. -/
def State.engineLoad (s : State) (e : EngCtx) (space a n : Nat) : Eng (List Byte × Sens) :=
  let k := s.core e.who.core
  match space with
  | 0 =>
    if xLen < a + n then .fail 0x06 a s
    else if !k.bufOk false a n then .fail 0x0F a s
    else .ok (k.x.bytes a n, rangeSens k.xtags a n) s
  | 1 =>
    if yLen < a + n then .fail 0x06 a s
    else if !k.bufOk true a n then .fail 0x0F a s
    else .ok (k.y.bytes a n, rangeSens k.ytags a n) s
  | 3 =>
    if (s.window e.who.core e.part).2 < a + n then .fail 0x06 a s
    else
      let cl := clusterOf e.who.core
      let ph := s.sPhys e.who.core e.part e.hashKey a
      if !s.rangeOk (.s cl) ph n then .fail 0x0F a s
      else
        let sens := (s.sTagWith e.own cl ph).sens
        let s := s.perfAdd e.part 18 1
        let (bs, s) := s.engineRead e.who e.own e.vis e.born (.s cl) ph n
        .ok (bs, sens) s
  | _ =>
    match s.engineReach e false .pub a with
    | .wait s => .wait s
    | .fail c v s => .fail c v s
    | .ok (p, ad) s =>
      if !s.rangeOk p ad n then .fail 0x0F a s
      else
        let sens := s.pageSens p ad
        let s := (if p = .hbm then s.perfAdd e.part 16 1 else s).sendTo e.who e.part p ad []
        let (bs, s) := s.engineRead e.who e.own e.vis e.born p ad n
        .ok (bs, sens) (s.carry e.part (dieOf e.who.core) p ad false bs)

/-- Engine writes stay unpublished until their command completes: they are in order, at no agent's scope (R134). -/
def State.engineWrite (s : State) (p : Place) (a : Nat) (bs : List Byte) : State × List Nat × Bool :=
  let r := s.performAll p a bs .core .outside none
  (r.1, r.2, r.2.length = (cutLines (bs.length + 1) a bs).length)

/-- Write bytes that lie in one line, for an engine: the numbers of the writes. -/
def State.engineStore (s : State) (e : EngCtx) (space a : Nat) (bs : List Byte) (sens : Sens) (fmt : Tag)
    (layout : BitVec 2) : Eng (List Nat) :=
  let n := bs.length
  match space with
  | 0 =>
    if xLen < a + n then .fail 0x06 a s
    else .ok [] (s.modCore e.who.core (fun k => k.putBuf false a bs (fun _ l => l.written fmt layout sens)))
  | 1 =>
    if yLen < a + n then .fail 0x06 a s
    else .ok [] (s.modCore e.who.core (fun k => k.putBuf true a bs (fun _ l => l.written fmt layout sens)))
  | 2 =>
    if wLen < a + n then .fail 0x06 a s
    else .ok [] (s.modCore e.who.core (fun k => { k with
      w := k.w.putBytes a bs
      wbad := k.wbad.filter (fun i => !(a ≤ i * 256 && i * 256 + 256 ≤ a + n)) }))
  | 3 =>
    if (s.window e.who.core e.part).2 < a + n then .fail 0x06 a s
    else
      let cl := clusterOf e.who.core
      let ph := s.sPhys e.who.core e.part e.hashKey a
      let (s, ids, _) := (s.perfAdd e.part 18 1).engineWrite (.s cl) ph bs
      .ok ids ((s.tagS cl ph n (fun _ l => l.written fmt layout sens)).forgetAdvances (.s cl) ph n)
  | _ =>
    match s.engineReach e true sens a with
    | .wait s => .wait s
    | .fail c v s => .fail c v s
    | .ok (p, ad) s =>
      let (s, ids, ok) := (s.sendTo e.who e.part p ad bs).engineWrite p ad bs
      if ok then .ok ids s else .fail 0x0F a s

/-- The writes of an NC copy become visible to its context as by an acquire of their bytes alone: what its phase has read or
stored there binds no later read (R115, R166). -/
def State.acquireCopy (s : State) (w : Who) (ids : List Nat) : State :=
  s.modCtx w (fun c => { c with
    vis := unionNat ids c.vis
    phaseBytes := c.phaseBytes.filter (fun b => !s.hist.any (fun x => ids.contains x.id && x.covers b.place b.addr)) })

/-- Completion under R134: publish at the counter's scope (package without one), OR the flags, advance the counter, then
decrement the count. A counter that would overflow is a failure of the command (false), whose record holds the handle as its failing
address (DESIGN CHOICE, log 45). -/
def State.completeEngine (s : State) (w : Who) (cls : Cls) (ids : List Nat) (comp : Option Completion)
    (flags : BitVec 7) (engine channel done : Nat) : State × Bool :=
  let sc := ((comp.map (fun c => c.key.widest)).getD .package)
  let s := (s.publishWrites ids sc (.core w.core)).orFlags w flags
  match comp with
  | none => (s.modCtx w (fun c => c.drop cls 1), true)
  | some c =>
    let s := (s.countCtr w c.key).sendAdvance w (s.ctx w).part c.key c.incr
    let (rid, s) := s.fresh
    let s := { s with releases := ⟨rid, .core w.core, sc, ids, none⟩ :: s.releases }
    match s.ctrAdvance c.key c.incr rid with
    | some s => (s.modCtx w (fun c => c.drop cls 1), true)
    | none => (s.engineFailure w cls engine 0x12 channel done c.handle.toNat, false)

/-- A command that waits in the middle begins again: what is left of the attempt is the requests it has sent (R216, R264). -/
def State.restart (s u : State) (part : Nat) : State :=
  let asks (t : State) : Nat := (t.perf.get 0 (part * 32 + 19)).toNat
  ({ s with dies := u.dies } : State).perfAdd part 19 (asks u - asks s)

/-! ### Copies -/

def CopyShape.total (c : CopyShape) : Nat := c.len * c.n1 * c.n2

/-- The destination address of byte n of the enumeration (R164, R168). -/
def CopyShape.dstAt (c : CopyShape) (n : Nat) : Nat :=
  let b := n % c.len
  let i1 := n / c.len % c.n1
  let i2 := n / (c.len * c.n1)
  match c.gather with
  | some _ => c.dst + i1 * c.len + b
  | none => (((c.dst : Int) + i2 * c.ds2 + i1 * c.ds1 + b) % 18446744073709551616).toNat

/-- The source address of byte n, outside CPYG. -/
def CopyShape.srcAt (c : CopyShape) (n : Nat) : Nat :=
  let b := n % c.len
  let i1 := n / c.len % c.n1
  let i2 := n / (c.len * c.n1)
  (((c.src : Int) + i2 * c.ss2 + i1 * c.ss1 + b) % 18446744073709551616).toNat

/-- What sealed weights mean for one end of a copy (R100): its page is an SW = 1 granule of the partition, or host memory. -/
inductive CopyPage where
  | plain | sealed | host
deriving DecidableEq, Repr

def State.copyPage (s : State) (part : Nat) (p : Place) (a : Nat) : CopyPage :=
  match p with
  | .host => .host
  | .hbm => if granuleV (s.granule a) && granulePart (s.granule a) = part && granuleSW (s.granule a) then .sealed else .plain
  | _ => .plain

/-- The page of an address of a copy, where its translation is held. -/
def State.pageAt (s : State) (e : EngCtx) (space a : Nat) (write : Bool) : CopyPage :=
  if space != 4 then .plain
  else
    match s.lookup e.ask (dieOf e.who.core) e.part a write with
    | .hit p d => s.copyPage e.part p d
    | _ => .plain

/-- A line of sealed weights, which only a copy may read or write (R100): every other command is refused, as a seal record is (R233),
but for SCRUB's zero lines (R242). DEDUCED, log 67. -/
def State.sealedPage (s : State) (e : EngCtx) (space a : Nat) (write : Bool) : Bool := s.pageAt e space a write = .sealed

/-- The bytes of the enumeration from byte n on that lie in its destination line: a line of 64 bytes of global memory, or of 256 bytes of a
buffer. A copy writes them at once (R90, R101), and what supplies any of them decides their sensitivity (R167). -/
def CopyShape.lineRun (c : CopyShape) (n : Nat) : Nat :=
  let unit := if c.dstSpace = 4 then 64 else 256
  ((List.range (min unit (c.total - n))).takeWhile (fun j => c.dstAt (n + j) / unit = c.dstAt n / unit)).length

/-- How many of k bytes of the enumeration from byte n on go to addresses one after another. -/
def CopyShape.storeRun (c : CopyShape) (n k : Nat) : Nat :=
  ((List.range k).takeWhile (fun j => c.dstAt (n + j) = c.dstAt n + j)).length

/-- A copy may read sealed weights only into W or other sealed weights, and may write them only from host memory or other
sealed weights (R100): the end that breaks the rule, if any. -/
def swRule (src dst : CopyPage) (toW : Bool) : Option Bool :=
  if src = .sealed && !(toW || dst = .sealed) then some false
  else if dst = .sealed && !(src = .host || src = .sealed) then some true
  else none

/-- Read up to k source bytes of a copy that lie in one line. A line of 64 bytes of global memory is read in one access: what follows in it
comes from that access (R101). -/
def State.sourceBytes (s : State) (e : EngCtx) (c : CopyShape) (line : Option (Nat × List Byte × Sens)) (src k : Nat) :
    Eng ((List Byte × Sens) × Option (Nat × List Byte × Sens)) :=
  let cut (l : List Byte × Sens) (s : State) : Eng ((List Byte × Sens) × Option (Nat × List Byte × Sens)) :=
    .ok ((l.1.take k, l.2), some (src + k, l.1.drop k, l.2)) s
  match line.filter (fun l => c.srcSpace = 4 && l.1 = src && k ≤ l.2.1.length) with
  | some l => cut l.2 s
  | none =>
    match s.engineLoad e c.srcSpace src (if c.srcSpace = 4 then 64 - src % 64 else k) with
    | .wait s => .wait s
    | .fail x v s => .fail x v s
    | .ok l s => if c.srcSpace = 4 then cut l s else .ok (l, none) s

/-- The element of the enumeration that byte n belongs to. -/
def CopyShape.element (c : CopyShape) (n : Nat) : Nat := n / c.len % c.n1

/-- Where byte n of a copy comes from, as far as it is known: a CPYG's source address follows from the index of its element. -/
def CopyGot.source (g : CopyGot) (c : CopyShape) (n : Nat) : Option Nat :=
  match c.gather with
  | none => some (c.srcAt n)
  | some (_, _, stride) => (g.index.filter (fun x => x.1 = c.element n)).map (fun x => c.src + x.2 * stride + n % c.len)

/-- A CPYG reads the index of the element of byte n, once, as any source (R168). -/
def State.indexFetch (s : State) (e : EngCtx) (c : CopyShape) (n : Nat) (g : CopyGot) : Eng CopyGot :=
  match c.gather with
  | none => .ok g s
  | some (space, list, _) =>
    let at' := list + 4 * c.element n
    if s.sealedPage e space at' false then .fail 0x06 at' s
    else
      match s.engineLoad e space at' 4 with
      | .wait s => .wait s
      | .fail c v s => .fail c v s
      | .ok (bs, _) s => .ok { g with index := some (c.element n, leNat bs) } s

/-- The home of a source address of a copy, where its translation is held. -/
def State.sourceHome (s : State) (e : EngCtx) (c : CopyShape) (src : Nat) : List (Place × Nat) :=
  if c.srcSpace != 4 then []
  else
    match s.lookup e.ask (dieOf e.who.core) e.part src false with
    | .hit p a => [(p, a)]
    | _ => []

/-- One read access of a copy (R89): the source bytes from byte n of the enumeration on, at most k of them and as far as they lie in one
line and one row; or first the index of their element. -/
def State.copyFetch (s : State) (e : EngCtx) (c : CopyShape) (dst : CopyPage) (n k : Nat) (g : CopyGot) : Eng CopyGot :=
  match g.source c n with
  | none => s.indexFetch e c n g
  | some src =>
    let unit := if c.srcSpace = 4 then 64 else 256
    match s.sourceBytes e c g.line src (min k (min (c.len - n % c.len) (unit - src % unit))) with
    | .wait s => .wait s
    | .fail c v s => .fail c v s
    | .ok ((bs, sens), line) u =>
      .ok { g with
        line, bytes := g.bytes ++ bs, sens := g.sens.max sens, homes := g.homes ++ s.sourceHome e c src
        broken := g.broken.orElse (fun _ => (swRule (s.pageAt e c.srcSpace src false) dst (c.dstSpace = 2)).map (fun d => (src, d))) } u

/-- What a copy still holds once the bytes of a destination line are written: the rest of the source line, with its home. -/
def CopyGot.written (g : CopyGot) : CopyGot :=
  let rest := g.line.filter (fun l => !l.2.1.isEmpty)
  { CopyGot.empty with index := g.index, line := rest, homes := if rest.isSome then g.homes.getLast?.toList else [] }

/-- Write the bytes of a copy that share a destination line, run by run. -/
def State.copyWrite (s : State) (e : EngCtx) (c : CopyShape) (sens : Sens) : Nat → Nat → List Byte → Eng (List Nat)
  | 0, _, _ => .ok [] s
  | fuel + 1, n, bs =>
    if bs.isEmpty then .ok [] s
    else
      let m := c.storeRun n bs.length
      match s.engineStore e c.dstSpace (c.dstAt n) (bs.take m) sens c.fmt c.layout with
      | .wait s => .wait s
      | .fail c v s => .fail c v s
      | .ok ids s =>
        match s.copyWrite e c sens fuel (n + m) (bs.drop m) with
        | .wait s => .wait s
        | .fail c v s => .fail c v s
        | .ok more s => .ok (ids ++ more) s

/-- One access of a copy: a read of source bytes, or, once all that share the destination line under way are read, the write of them (R89,
R90, R101). A destination that does not translate is waited for before anything is judged. -/
def State.copyStep (s : State) (e : EngCtx) (cmd : CopyCmd) : Eng CopyCmd :=
  let c := cmd.shape
  let g := cmd.got
  let dst := c.dstAt cmd.done
  let k := c.lineRun cmd.done
  match (if c.dstSpace = 4 && dst / 2 ^ 56 = 0 then s.lookup e.ask (dieOf e.who.core) e.part dst true else .denied) with
  | .miss m => .wait (s.requestAts e.ask (dieOf e.who.core) m)
  | _ =>
    if g.bytes.length < k then
      match s.copyFetch e c (s.pageAt e c.dstSpace dst true) (cmd.done + g.bytes.length) (k - g.bytes.length) g with
      | .wait s => .wait s
      | .fail c v s => .fail c v s
      | .ok g s => .ok { cmd with got := g } s
    else
      match g.broken with
      | some (src, atDst) => .fail 0x06 (if atDst then dst else src) s
      | none =>
        match s.copyWrite e c (if cmd.absorb && c.dstSpace = 4 && g.sens = .seal then .ten else g.sens) k cmd.done g.bytes with
        | .wait s => .wait s
        | .fail c v s => .fail c v s
        | .ok ids s =>
          .ok { cmd with
            done := cmd.done + k, ids := cmd.ids ++ ids, got := g.written
            input := if cmd.absorb then cmd.input ++ g.bytes else cmd.input } s

/-- How far a copy ran: its command with its progress, and a failure if it met one. -/
structure CopyRun where
  s : State
  cmd : CopyCmd
  waits : Bool
  failed : Option (Nat × Nat)

/-- Run a copy over at most as many accesses as there is fuel, and count the bytes it writes (R264). -/
def copyLoop (e : EngCtx) : Nat → State → CopyCmd → CopyRun
  | 0, s, cmd => ⟨s, cmd, false, none⟩
  | fuel + 1, s, cmd =>
    if cmd.shape.total ≤ cmd.done then ⟨s, cmd, false, none⟩
    else
      match s.copyStep e cmd with
      | .wait s => ⟨s, cmd, true, none⟩
      | .fail c v s => ⟨s, cmd, false, some (c, v)⟩
      | .ok next s => copyLoop e fuel (s.perfAdd e.part 15 (next.done - cmd.done)) next

/-- Enough accesses for the rest of a copy: for each byte an index, a read and a write. -/
def CopyCmd.accesses (c : CopyCmd) : Nat := 3 * (c.shape.total - c.done) + 1

def State.copyCtx (s : State) (core : Nat) (c : CopyCmd) : EngCtx :=
  ⟨⟨core, c.ctx⟩, (s.ctx ⟨core, c.ctx⟩).part, c.hashKey, c.own, c.vis, c.id⟩

def Core.chan (k : Core) (n : Nat) : List CopyCmd := k.chans[n % 4]'(Nat.mod_lt n (by decide))
def Core.setChan (k : Core) (n : Nat) (l : List CopyCmd) : Core :=
  { k with chans := k.chans.set (n % 4) l (Nat.mod_lt n (by decide)) }

/-- Run the copy at the head of a channel over at most some accesses, keeping its progress. -/
def State.runCopy (s : State) (core ch steps : Nat) : Option CopyRun :=
  match (s.core core).chan ch with
  | [] => none
  | cmd :: rest =>
    if cmd.copied then none
    else
      let r := copyLoop (s.copyCtx core cmd) (min steps cmd.accesses) s cmd
      some { r with s := r.s.modCore core (fun k => k.setChan ch (r.cmd :: rest)) }

/-- Remove the head of a channel. -/
def State.popChan (s : State) (core ch : Nat) : State := s.modCore core (fun k => k.setChan ch ((k.chan ch).drop 1))

/-- A failing copy stops where it is (R170); what it has written is published at package scope (DESIGN CHOICE, log 64); what it
carried is discarded and its MT falls (R314). -/
def State.failCopy (s : State) (core ch : Nat) (cmd : CopyCmd) (engine cause addr : Nat) : State :=
  let w : Who := ⟨core, cmd.ctx⟩
  let s := (s.popChan core ch).publishWrites cmd.ids .package (.core core)
  let s := s.engineFailure w .cp engine cause ch cmd.done addr
  if cmd.chained.isSome then s.modCtx w (fun c => c.drop .mt 1) else s

/-- Hand a completed copy's chained command to the array queue once it has room (R160, R314). -/
def State.enqueueChained (s : State) (core ch : Nat) (cmd : CopyCmd) : State :=
  match cmd.chained with
  | none => s.popChan core ch
  | some (e, _) =>
    if (s.core core).queue.length ≥ 8 then
      s.modCore core (fun k => k.setChan ch ({ cmd with copied := true } :: (k.chan ch).drop 1))
    else (s.popChan core ch).modCore core (fun k => { k with queue := k.queue ++ [e] })

/-- Complete a copy whose bytes are all written (R134, R166): under NC its writes become visible to the issuing context
and no counter advances. Then what it carried is handed over; a counter overflow is a failure, which discards it (R314). -/
def State.finishCopy (s : State) (core ch : Nat) (cmd : CopyCmd) : State :=
  let w : Who := ⟨core, cmd.ctx⟩
  let s := if cmd.nc then s.acquireCopy w cmd.ids else s
  let (s, ok) := s.completeEngine w .cp cmd.ids (if cmd.nc then none else cmd.completion) 0 (if cmd.absorb then 4 else 1) ch
    cmd.done
  if ok then s.enqueueChained core ch cmd
  else
    let s := s.popChan core ch
    if cmd.chained.isSome then s.modCtx w (fun c => c.drop .mt 1) else s

/-- The advance that completes a copy may travel to its counter (R136). -/
def State.copyMayEnd (s : State) (core : Nat) (c : CopyCmd) : Bool :=
  let e := s.copyCtx core c
  c.nc || c.completion.all (s.advanceMayTravel e.who e.part)

/-- The copy at the head of a channel moves what is left and completes, fails, or waits for a translation; a chained command held for room
in the array queue is handed over (R134, R166, R170, R314). -/
def State.copyEnds (s : State) (core : Nat) (ch : BitVec 2) : Out :=
  match (s.core core).chan ch.toNat with
  | [] => .next s
  | cmd :: _ =>
    if cmd.absorb then .next s
    else if cmd.copied then
      .next (if (s.core core).queue.length ≥ 8 then s else s.enqueueChained core ch.toNat cmd)
    else
      match s.runCopy core ch.toNat cmd.accesses with
      | none => .next s
      | some r =>
        match r.failed with
        | some (c, a) => .next (r.s.failCopy core ch.toNat r.cmd 1 c a)
        | none => if r.waits || !r.s.copyMayEnd core r.cmd then .next r.s else .next (r.s.finishCopy core ch.toNat r.cmd)

/-- COPY_COMPLETE: the copy at the head of a channel comes to its end; none does on a core that is frozen (R211). -/
def execCopyComplete (core : Nat) (ch : BitVec 2) (s : State) : Out := s.onClock core fun s => s.copyEnds core ch

/-! ### Copy syllables -/

/-- A signed 32-bit field. -/
def s32Field (w : Word) (lo : Nat) : Int := readInt 5 (bitsOf w.toNat lo 32)

/-- The extents of spaces 0 to 3 for a partition on a core (R86, R93). -/
def State.extent (s : State) (core part space : Nat) : Nat :=
  match space with
  | 0 => xLen
  | 1 => yLen
  | 2 => wLen
  | 3 => (s.window core part).2
  | _ => 2 ^ 56

/-- The smallest k below n at which `a + k * st` leaves `[0, top]`, if any. -/
def firstOut (top a st : Int) (n : Nat) : Option Nat :=
  let k : Nat :=
    if a < 0 || top < a then 0
    else if st = 0 then n
    else if 0 < st then ((top - a) / st).toNat + 1
    else (a / (-st)).toNat + 1
  if k < n then some k else none

/-- Where the first row of a strided run that leaves its space begins, in the order of R164, if any does (log 45). -/
def outOfExtent (lim base : Nat) (s1 s2 : Int) (len n1 n2 : Nat) : Option Nat :=
  let top : Int := (lim : Int) - len
  let lo := min 0 (((n1 - 1 : Nat) : Int) * s1)
  let hi := max 0 (((n1 - 1 : Nat) : Int) * s1)
  -- the first i2 whose rows do not all lie inside: the lowest or the highest of them leaves
  let a := firstOut top ((base : Int) + lo) s2 n2
  let b := firstOut top ((base : Int) + hi) s2 n2
  let row := match a, b with
    | some x, some y => some (min x y)
    | some x, none => some x
    | none, r => r
  row.bind (fun i2 => (firstOut top ((base : Int) + i2 * s2) s1 n1).map (fun i1 =>
    (((base : Int) + i2 * s2 + i1 * s1) % (2 ^ 64 : Nat)).toNat))

/-- What the checks of R165 on a copy find. -/
inductive CopyCheck where
  | ok (shape : CopyShape) (comp : Option Completion)
  | trap (cause : BitVec 8) (val : Word)
  | block (m : Miss)

/-- Counter checks of an engine command (R118, R165 items 4 and 5); the increment register holds n64, PUB. -/
def State.checkCompletion (s : State) (h : Word) (incr : BitVec 5) : Except (BitVec 8 × Word) Completion ⊕ Miss :=
  match s.checkHandle s.who s.cur.part s.cur.hashKey true h with
  | .trap c v => .inl (.error (c, v))
  | .block m => .inr m
  | .ok key =>
    if s.gsens incr != .pub then .inl (.error (0x05, incr.setWidth 64)) else .inl (.ok ⟨key, h, (s.gw incr).toNat⟩)

/-- The group and pair registers of a copy, in encoding order. -/
def State.copyRegs (s : State) (a b c : BitVec 5) : List Word :=
  [s.gw a, s.gw (a + 1), s.gw (a + 2), s.gw (a + 3)] ++
  (if b = 0 then [0, 0] else [s.gw b, s.gw (b + 1)]) ++ [s.gw c]

/-- Items 2 and 3 of R165 for CPY, CPYX and ABSORB: the shape of the copy, or a trap. -/
def State.copyShape (s : State) (a b : BitVec 5) : Except (BitVec 8 × Word) CopyShape :=
  let src := s.gw a
  let dst := s.gw (a + 1)
  let w := s.gw (a + 2)
  let ss := bitsOf src.toNat 61 3
  let ds := bitsOf dst.toNat 61 3
  let len := bitsOf w.toNat 0 20
  let n1 := bitsOf w.toNat 20 16 + 1
  let n2 := bitsOf w.toNat 36 16 + 1
  let st (r : BitVec 5) (lo : Nat) : Int := if b = 0 then 0 else s32Field (s.gw r) lo
  let sh : CopyShape :=
    { srcSpace := ss, src := bitsOf src.toNat 0 56, dstSpace := ds, dst := bitsOf dst.toNat 0 56, len, n1, n2,
      fmt := w.extractLsb' 56 4, layout := w.extractLsb' 60 2, ss1 := st b 0, ss2 := st b 32, ds1 := st (b + 1) 0,
      ds2 := st (b + 1) 32, gather := none }
  if bitsOf src.toNat 56 5 != 0 || ss ≥ 6 then .error (0x08, src)
  else if bitsOf dst.toNat 56 5 != 0 || ds ≥ 6 then .error (0x08, dst)
  else if bitsOf w.toNat 52 4 != 0 || bitsOf w.toNat 62 2 != 0 || len = 0 || len * n1 * n2 > 4294967296 ||
      sh.layout = 3 then .error (0x08, w)
  else if ss = 2 || ss = 5 then .error (0x06, BitVec.ofNat 64 sh.src)
  else if ds = 5 then .error (0x06, BitVec.ofNat 64 sh.dst)
  else
    match (if ss < 4 then outOfExtent (s.extent s.issue.core s.cur.part ss) sh.src sh.ss1 sh.ss2 len n1 n2 else none) with
    | some x => .error (0x06, BitVec.ofNat 64 x)
    | none =>
      match (if ds < 4 then outOfExtent (s.extent s.issue.core s.cur.part ds) sh.dst sh.ds1 sh.ds2 len n1 n2 else none) with
      | some x => .error (0x06, BitVec.ofNat 64 x)
      | none => .ok sh

/-- Items 2 and 3 of R165 for CPYG (R168, R313). -/
def State.gatherShape (s : State) (a b : BitVec 5) : Except (BitVec 8 × Word) CopyShape :=
  let src := s.gw a
  let dst := s.gw (a + 1)
  let w := s.gw (a + 2)
  let ix := s.gw b
  let ss := bitsOf src.toNat 61 3
  let ds := bitsOf dst.toNat 61 3
  let is := bitsOf ix.toNat 61 3
  let len := bitsOf w.toNat 0 20
  let n1 := bitsOf w.toNat 20 16 + 1
  let list := bitsOf ix.toNat 0 56
  let sh : CopyShape :=
    { srcSpace := ss, src := bitsOf src.toNat 0 56, dstSpace := ds, dst := bitsOf dst.toNat 0 56, len, n1, n2 := 1,
      fmt := w.extractLsb' 56 4, layout := w.extractLsb' 60 2, ss1 := 0, ss2 := 0, ds1 := 0, ds2 := 0,
      gather := some (is, list, bitsOf (s.gw (b + 1)).toNat 0 32) }
  if bitsOf src.toNat 56 5 != 0 || ss ≥ 6 then .error (0x08, src)
  else if bitsOf dst.toNat 56 5 != 0 || ds ≥ 6 then .error (0x08, dst)
  else if bitsOf w.toNat 36 20 != 0 || bitsOf w.toNat 62 2 != 0 || len = 0 || len * n1 > 4294967296 ||
      sh.layout = 3 then .error (0x08, w)
  else if bitsOf ix.toNat 56 5 != 0 || is ≥ 6 || list % 4 != 0 then .error (0x08, ix)
  else if bitsOf (s.gw (b + 1)).toNat 32 32 != 0 then .error (0x08, s.gw (b + 1))
  else if ss = 2 || ss = 5 then .error (0x06, BitVec.ofNat 64 sh.src)
  else if ds = 5 then .error (0x06, BitVec.ofNat 64 sh.dst)
  else if is = 2 || is = 5 then .error (0x06, BitVec.ofNat 64 list)
  else
    match (if is < 4 then outOfExtent (s.extent s.issue.core s.cur.part is) list 4 0 4 n1 1 else none) with
    | some x => .error (0x06, BitVec.ofNat 64 x)
    | none =>
      match (if ds < 4 then outOfExtent (s.extent s.issue.core s.cur.part ds) sh.dst len 0 len n1 1 else none) with
      | some x => .error (0x06, BitVec.ofNat 64 x)
      | none => .ok sh

/-- The read writes of the current phase, which a copy of this phase reads as it would (R115 rule 2, R133). -/
def State.copyVis (s : State) : List Nat :=
  let c := s.cur
  unionNat (((c.phaseBytes.filter (fun b => b.phase = c.phase && !b.own)).map PhaseByte.id).filter (fun i => i != 0)) c.vis

/-- Put a copy whose checks have passed into its channel (R36, R166). -/
def State.issueCopy (s : State) (sh : CopyShape) (nc : Bool) (comp : Option Completion) (regs : List Word) (fn : BitVec 5)
    (chained : Option (ArrEntry × Word)) (absorb : Bool) : State :=
  let own := s.ownStores s.who
  let vis := s.copyVis
  let (id, s) := s.fresh
  let cmd : CopyCmd :=
    { id, ctx := s.issue.ctx % 4, shape := sh, nc, completion := comp, regs, fn, hashKey := s.cur.hashKey, own, vis,
      chained, absorb, input := [], done := 0, ids := [], copied := false, got := CopyGot.empty }
  let ch := (fn.toNat % 4)
  (s.modCore s.issue.core (fun k => k.setChan ch (k.chan ch ++ [cmd]))).modCur (fun c => c.bump .cp 1)

/-- A copy blocks while its channel holds eight commands or CP is at its cap (R36, R166). -/
def State.channelRoom (s : State) (ch : Nat) (f : State → Out) : Out :=
  if ((s.core s.issue.core).chan ch).length ≥ 8 then s.blockOn (.queue (.channel ch)) else s.roomFor .cp 1 f

/-- Items 4 and 5 of R165, then the issue: NC skips the counter. -/
def State.withCompletion (s : State) (nc : Bool) (h : Word) (incr : BitVec 5) (f : Option Completion → State → Out) :
    Out :=
  if nc then (if s.gsens incr != .pub then s.raise 0x05 (incr.setWidth 64) else f none s)
  else
    match s.checkCompletion h incr with
    | .inl (.error (c, v)) => s.raise c v
    | .inr m => s.blockMiss [m]
    | .inl (.ok comp) => f (some comp) s

/-- A command whose counter handle waits for a translation blocks, whatever it would raise (R31). -/
def State.awaitHandle (s : State) (h : Word) (f : State → Out) : Out :=
  match s.checkHandle s.who s.cur.part s.cur.hashKey true h with
  | .block m => s.blockMiss [m]
  | _ => f s

/-- The same of a command that need not name a counter. -/
def State.awaitHandleIf (s : State) (named : Bool) (h : Word) (f : State → Out) : Out := if named then s.awaitHandle h f else f s

/-- The fn5 field of a copy (R163). -/
def copyFn (x : Bool) (h : BitVec 2) : BitVec 5 := (BitVec.ofBool x ++ h).setWidth 5

/-- CPY (R164 to R167, R312, R313). -/
def execCpy (gd : Guard) (a b c : BitVec 5) (x : Bool) (h : BitVec 2) (s : State) : Out :=
  s.guarded gd fun s => s.channelRoom h.toNat fun s => s.awaitHandleIf (!x) (s.gw (a + 3)) fun s =>
    match s.copyShape a b with
    | .error (cause, v) => s.raise cause v
    | .ok sh => s.withCompletion x (s.gw (a + 3)) c fun comp s =>
      .next (s.issueCopy sh x comp (s.copyRegs a b c) (copyFn x h) none false)

/-- CPYG (R168, R312, R313). -/
def execCpyg (gd : Guard) (a b c : BitVec 5) (x : Bool) (h : BitVec 2) (s : State) : Out :=
  s.guarded gd fun s => s.channelRoom h.toNat fun s => s.awaitHandleIf (!x) (s.gw (a + 3)) fun s =>
    match s.gatherShape a b with
    | .error (cause, v) => s.raise cause v
    | .ok sh => s.withCompletion x (s.gw (a + 3)) c fun comp s =>
      .next (s.issueCopy sh x comp (s.copyRegs a b c) (copyFn x h) none false)

/-- CPYX (R160, R169, R312 to R314): the X syllable of its bundle is captured with it and does not block under R34 while another context
owns the array, since it does not issue on its own (R169; DEDUCED, log 59). -/
def execCpyx (gd : Guard) (a b c : BitVec 5) (x : Bool) (h : BitVec 2) (s : State) : Out :=
  s.guarded gd fun s => s.channelRoom h.toNat fun s => s.roomFor .mt 1 fun s =>
    s.awaitHandleIf (!x) (s.gw (a + 3)) fun s =>
    match s.copyShape a b with
    | .error (cause, v) => s.raise cause v
    | .ok sh => s.withCompletion x (s.gw (a + 3)) c fun comp s =>
      match s.issue.chain with
      | none => s.raise 0x01 s.sylWord
      | some i =>
        match captureChained s.cur i (BitVec.ofNat 64 s.issue.chainWord) with
        | .error (cause, v) => s.raiseAt s.issue.chainIdx cause v
        | .ok (regs, fn, cmd) =>
          let e : ArrEntry := ⟨s.issue.ctx % 4, true, regs, fn, s.cur.conf, cmd⟩
          let s := s.issueCopy sh x comp (s.copyRegs a b c) (copyFn x h) (some (e, BitVec.ofNat 64 s.issue.chainWord)) false
          .next (s.modCur (fun c => c.bump .mt 1))

end Sys2Proof.Machine
end

