-- ==== Sys2Proof/Machine/Operands.lean ====
section
/-! DEFINITION. Operand forms: immediates, scalar operands, effective addresses, elements and the tag checks of vector
sources. -/

namespace Sys2Proof.Machine

/-! ### Immediates (R278, R279) -/

/-- The signed immediate of an RI syllable, with its LIMM payload where one follows. -/
def imm10 (i : BitVec 10) (x : Option (BitVec 20)) : Word :=
  match x with
  | none => i.signExtend 64
  | some l => (l ++ i).signExtend 64

/-- The signed immediate of an RL syllable, with its LIMM payload where one follows. -/
def imm15 (i : BitVec 15) (x : Option (BitVec 20)) : Word :=
  match x with
  | none => i.signExtend 64
  | some l => (l ++ i).signExtend 64

/-- The unsigned immediate of BKPT (R300). -/
def code10 (i : BitVec 10) (x : Option (BitVec 20)) : Word :=
  match x with
  | none => i.setWidth 64
  | some l => (l ++ i).setWidth 64

/-! ### Scalar operations -/

/-- A result of one g register. -/
def State.scalar1 (s : State) (gd : Guard) (l : Nat) (d a : BitVec 5) (f : Word → Word) : Out :=
  s.guarded gd fun s => .next (s.pushG l d (f (s.gw a)) (s.gsens a))

/-- A result of two g registers: the higher sensitivity of the two (R56). -/
def State.scalar2 (s : State) (gd : Guard) (l : Nat) (d a b : BitVec 5) (f : Word → Word → Word) : Out :=
  s.guarded gd fun s => .next (s.pushG l d (f (s.gw a) (s.gw b)) ((s.gsens a).max (s.gsens b)))

/-! ### Elements of v registers (R63) -/

/-- Element width for an operation of a type; raw works on bytes (R366). -/
def opBits (t : Tag) : Nat := if t = 0 then 8 else tagBits t

/-- Element width of the mask grain: types narrower than a byte and raw are governed byte by byte (R366). -/
def grainBits (t : Tag) : Nat := if opBits t < 8 then 8 else opBits t

/-- The elements of a v register for a type. -/
def elemsOf (w : Nat) (v : VWord) : List Nat := splitBits w (2048 / w) v.toNat

/-- A v register from elements. -/
def ofElems (w : Nat) (xs : List Nat) : VWord := BitVec.ofNat 2048 (joinBits w xs)

/-- The bit of m0 that governs element i of width w: that of its lowest byte (R41). -/
def maskBit (m : QWord) (w i : Nat) : Bool := m.getLsbD (w * i / 8)

/-- A source of v or q type is accepted (R54): its tag equals the type, or is raw where the type is an integer type or the
instruction moves bits. -/
def tagOk (tag t : Tag) (moves : Bool) : Bool := tag = t || (tag = 0 && (tagInt t || moves))

/-- TRAPVAL of a register tag check (R197). -/
def tagTrapVal (reg : Nat) (q : Bool) (tag t : Tag) : Word :=
  BitVec.ofNat 64 (reg + 32 * q.toNat + 256 * tag.toNat + 4096 * t.toNat)

/-! ### Effective addresses (R88) -/

/-- Base register plus scaled offset, formed in 64 bits. -/
def State.ea (s : State) (b : BitVec 5) (off : Nat) : Word := s.gw b + BitVec.ofNat 64 off

end Sys2Proof.Machine
end

