-- ==== Sys2Proof/Machine/Vector.lean ====
section
/-! DEFINITION. The V-class syllables (R366 to R376, R381, R386 to R394) and the conversions and fixed orders of summation
they use (R70, R77 to R80). -/

namespace Sys2Proof.Machine

/-! ### The frame (R366) -/

/-- A v register as read; where R156 refuses the read the syllable has already trapped. -/
def State.vreg (s : State) (r : BitVec 5) : VReg := (s.readV r).getD VReg.reset

/-- Element i of width w of a v register. -/
def VReg.lane (v : VReg) (w i : Nat) : Nat := v.val.toNat / 2 ^ (w * i) % 2 ^ w

/-- The tag check of a v source (R54): whether it passes, and TRAPVAL. -/
def State.vcheck (s : State) (r : BitVec 5) (t : Tag) (moves : Bool) : Bool × Word :=
  (tagOk (s.vreg r).fmt t moves, tagTrapVal r.toNat false (s.vreg r).fmt t)

/-- Items 2 and 3 of R366: Transom misuse, then the first tag check that fails. -/
def State.vissue (s : State) (reads writes : List (BitVec 5)) (checks : List (Bool × Word)) (f : State → Out) : Out :=
  if reads.any (fun r => (s.readV r).isNone) || writes.any s.v31Busy then s.raise 0x17 0
  else
    match checks.find? (fun c => !c.1) with
    | some c => s.raise 0x04 c.2
    | none => f s

/-- The highest sensitivity of registers read, with m0 where Z = 1. -/
def State.vsens (s : State) (reads : List (BitVec 5)) (z : Bool) (more : Sens) : Sens :=
  let base := reads.foldl (fun acc r => acc.max (s.vreg r).sens) more
  if z then base.max (s.cur.readM 0).sens else base

/-- Element i of the grain is active (R366). -/
def State.activeLane (s : State) (z : Bool) (w i : Nat) : Bool := !z || maskBit (s.cur.readM 0).val w i

/-- Merge new elements into the old destination under m0 where Z = 1 (R366). -/
def State.vmerge (s : State) (t : Tag) (z : Bool) (old new : VWord) : VWord :=
  if z then
    let w := grainBits t
    ofElems w (((elemsOf w old).zip (elemsOf w new)).zipIdx.map (fun (x : (Nat × Nat) × Nat) =>
      if s.activeLane z w x.2 then x.1.2 else x.1.1))
  else new

/-- Put a vector result in the latch file: elements with their flags, merged under Z; flags of active elements only. -/
def State.vput (s : State) (l : Nat) (t : Tag) (d : BitVec 5) (z : Bool) (sens : Sens) (rs : List (Nat × BitVec 7)) : State :=
  let w := opBits t
  let flags := rs.zipIdx.foldl (fun (acc : BitVec 7) (x : (Nat × BitVec 7) × Nat) =>
    if s.activeLane z w x.2 then acc ||| x.1.2 else acc) 0
  s.pushV l d (s.vmerge t z (s.vreg d).val (ofElems w (rs.map Prod.fst))) t sens flags

/-- An element-wise syllable whose sources all carry its type: `f` gives each element's bits and flags. -/
def State.elementwise (s : State) (gd : Guard) (l : Nat) (t : Tag) (d : BitVec 5) (z : Bool) (srcs : List (BitVec 5))
    (moves : Bool) (f : State → Nat → Nat × BitVec 7) : Out :=
  s.guarded gd fun s =>
    let reads := if z then srcs ++ [d] else srcs
    s.vissue reads [d] (reads.map (fun r => s.vcheck r t moves)) fun s =>
      .next (s.vput l t d z (s.vsens reads z .pub) ((List.range (2048 / opBits t)).map (f s)))

/-- The rounding mode and the saturate bit in force (R43, R46). -/
def State.rm (s : State) : Nat := s.cur.frm.toNat % 4
def State.sat (s : State) : Bool := s.cur.frm.getLsbD 2

/-- An element-wise operation of integers: the result is reduced to the element width (R64). -/
def State.intWise (s : State) (gd : Guard) (l : Nat) (t : Tag) (d a b : BitVec 5) (z : Bool) (f : Int → Int → Int) : Out :=
  s.elementwise gd l t d z [a, b] false fun s i =>
    let w := tagBits t
    (wrapInt w (f (readInt t ((s.vreg a).lane w i)) (readInt t ((s.vreg b).lane w i))), 0)

/-- A shift by b[i] mod w, read as unsigned (R387). -/
def State.shiftWise (s : State) (gd : Guard) (t : Tag) (d a b : BitVec 5) (z : Bool) (f : Int → Nat → Int) : Out :=
  s.elementwise gd 2 t d z [a, b] false fun s i =>
    let w := tagBits t
    (wrapInt w (f (readInt t ((s.vreg a).lane w i)) ((s.vreg b).lane w i % w)), 0)

/-- A bit-wise operation (R367, R387). -/
def State.bitWise (s : State) (gd : Guard) (t : Tag) (d a b : BitVec 5) (z : Bool) (f : Nat → Nat → Nat) : Out :=
  s.elementwise gd 2 t d z [a, b] true fun s i =>
    let w := opBits t
    (f ((s.vreg a).lane w i) ((s.vreg b).lane w i), 0)

/-- An element-wise operation of floating-point values (R375). -/
def State.floatWise (s : State) (gd : Guard) (t : Tag) (d a b : BitVec 5) (z : Bool)
    (f : FFmt → Nat → Nat → Nat → Nat × BitVec 7) : Out :=
  s.elementwise gd 4 t d z [a, b] false fun s i =>
    let w := tagBits t
    match ffmt t with
    | some k => f k s.rm ((s.vreg a).lane w i) ((s.vreg b).lane w i)
    | none => (0, 0)

/-! ### Integer and logical syllables -/

/-- VABS (R367). -/
def execVabs (gd : Guard) (t : BitVec 4) (d a : BitVec 5) (z : Bool) (s : State) : Out :=
  s.elementwise gd 2 t d z [a] false fun s i =>
    let w := tagBits t
    (wrapInt w ((readInt t ((s.vreg a).lane w i)).natAbs : Int), 0)
/-- VADD (R367). -/
def execVadd (gd : Guard) (t : BitVec 4) (d a b : BitVec 5) (z : Bool) (s : State) : Out :=
  s.intWise gd 2 t d a b z (fun x y => x + y)
/-- VSUB (R387). -/
def execVsub (gd : Guard) (t : BitVec 4) (d a b : BitVec 5) (z : Bool) (s : State) : Out :=
  s.intWise gd 2 t d a b z (fun x y => x - y)
/-- VMUL (R386). -/
def execVmul (gd : Guard) (t : BitVec 4) (d a b : BitVec 5) (z : Bool) (s : State) : Out :=
  s.intWise gd 3 t d a b z (fun x y => x * y)
/-- VMULH (R386): the upper half of the exact product. -/
def execVmulh (gd : Guard) (t : BitVec 4) (d a b : BitVec 5) (z : Bool) (s : State) : Out :=
  s.intWise gd 3 t d a b z (fun x y => x * y / (2 ^ tagBits t : Nat))
/-- VMAD (R386): d is a source. -/
def execVmad (gd : Guard) (t : BitVec 4) (d a b : BitVec 5) (z : Bool) (s : State) : Out :=
  s.elementwise gd 3 t d z [a, b, d] false fun s i =>
    let w := tagBits t
    let e (r : BitVec 5) : Int := readInt t ((s.vreg r).lane w i)
    (wrapInt w (e a * e b + e d), 0)
/-- VMIN (R387). -/
def execVmin (gd : Guard) (t : BitVec 4) (d a b : BitVec 5) (z : Bool) (s : State) : Out :=
  s.intWise gd 2 t d a b z (fun x y => if x ≤ y then x else y)
/-- VMAX (R387). -/
def execVmax (gd : Guard) (t : BitVec 4) (d a b : BitVec 5) (z : Bool) (s : State) : Out :=
  s.intWise gd 2 t d a b z (fun x y => if y ≤ x then x else y)
/-- VAND (R367): moves bits. -/
def execVand (gd : Guard) (t : BitVec 4) (d a b : BitVec 5) (z : Bool) (s : State) : Out :=
  s.bitWise gd t d a b z (fun x y => x &&& y)
/-- VOR (R387). -/
def execVor (gd : Guard) (t : BitVec 4) (d a b : BitVec 5) (z : Bool) (s : State) : Out :=
  s.bitWise gd t d a b z (fun x y => x ||| y)
/-- VXOR (R387). -/
def execVxor (gd : Guard) (t : BitVec 4) (d a b : BitVec 5) (z : Bool) (s : State) : Out :=
  s.bitWise gd t d a b z (fun x y => x ^^^ y)
/-- VSHL (R387). -/
def execVshl (gd : Guard) (t : BitVec 4) (d a b : BitVec 5) (z : Bool) (s : State) : Out :=
  s.shiftWise gd t d a b z (fun x n => x * (2 ^ n : Nat))
/-- VSHR (R387): arithmetic for sN, logical for nN. -/
def execVshr (gd : Guard) (t : BitVec 4) (d a b : BitVec 5) (z : Bool) (s : State) : Out :=
  s.shiftWise gd t d a b z (fun x n => x / (2 ^ n : Nat))
/-- VRSHR (R387, R388): halves round toward +∞. -/
def execVrshr (gd : Guard) (t : BitVec 4) (d a b : BitVec 5) (z : Bool) (s : State) : Out :=
  s.shiftWise gd t d a b z (fun x n => if n = 0 then x else (x + (2 ^ (n - 1) : Nat)) / (2 ^ n : Nat))

/-! ### Moves between the g and v files (R368, R381) -/

/-- VBCAST: the low w bits of a g register. -/
def execVbcast (gd : Guard) (t : BitVec 4) (d a : BitVec 5) (z : Bool) (s : State) : Out :=
  s.guarded gd fun s =>
    let reads := if z then [d] else []
    s.vissue reads [d] (reads.map (fun r => s.vcheck r t false)) fun s =>
      .next (s.vput 2 t d z (s.vsens reads z (s.gsens a))
        (List.replicate (2048 / opBits t) ((s.gw a).toNat % 2 ^ opBits t, 0)))

/-- VEXT: one element to a g register. -/
def execVext (gd : Guard) (t : BitVec 4) (d a b : BitVec 5) (s : State) : Out :=
  s.guarded gd fun s =>
    s.vissue [a] [] [s.vcheck a t false] fun s =>
      let w := tagBits t
      .next (s.pushG 2 d (BitVec.ofNat 64 ((s.vreg a).lane w ((s.gw b).toNat % (2048 / w))))
        ((s.vreg a).sens.max (s.gsens b)))

/-- VINS: one element from a g register; d is read whole. -/
def execVins (gd : Guard) (t : BitVec 4) (d a b : BitVec 5) (s : State) : Out :=
  s.guarded gd fun s =>
    s.vissue [d] [d] [s.vcheck d t true] fun s =>
      let w := tagBits t
      let es := (elemsOf w (s.vreg d).val).set ((s.gw b).toNat % (2048 / w)) ((s.gw a).toNat % 2 ^ w)
      .next (s.pushV 2 d (ofElems w es) t (((s.vreg d).sens.max (s.gsens a)).max (s.gsens b)) 0)

/-! ### Conversions (R369 to R371, R390) -/

/-- A float-to-float conversion that R70 lists as exact; a type to itself is exact too. -/
def exactCvt (dst src : Tag) : Bool :=
  dst = src || ((src = 11 || src = 12) && (dst = 8 || dst = 9 || dst = 10)) || ((src = 8 || src = 9) && dst = 10)

/-- One VCVT conversion (R70, R71). -/
def cvtElem (dst src : Tag) (rm : Nat) (sat : Bool) (x : Nat) : Nat × BitVec 7 :=
  match ffmt src, ffmt dst with
  | some f, some g =>
    (match f.read x with
    | .nan => (g.nan, 0)
    | .inf n =>
      if exactCvt dst src then (g.inf n, 0)
      else if sat then (g.maxFin n, flSAT)
      else if g.hasInf then (g.inf n, 0) else (g.nan, flIV)
    | .fin n m e =>
      if m = 0 then (g.signBit n, 0) else g.roundDyadic rm (sat && !exactCvt dst src) ⟨if n then -(m : Int) else m, e⟩)
  | none, some g =>
    let i := readInt src x
    if i = 0 then (0, 0) else g.roundDyadic rm sat ⟨i, 0⟩
  | some f, none =>
    let w := tagBits dst
    (match f.read x with
    | .nan => (0, flIV)
    | .inf n => (wrapInt w (if n then intMin dst else intMax dst), flIV)
    | .fin n m e =>
      let (i, rest) := roundInt rm n (if 0 ≤ e then m * 2 ^ e.toNat else m) (if 0 ≤ e then 1 else 2 ^ (-e).toNat)
      let c := clampInt (intMin dst) (intMax dst) i
      (wrapInt w c, if c != i then flIV else flagIf rest flNX))
  | none, none =>
    let i := readInt src x
    if tagBits dst ≤ tagBits src && sat then
      let c := clampInt (intMin dst) (intMax dst) i
      (wrapInt (tagBits dst) c, flagIf (c != i) flSAT)
    else (wrapInt (tagBits dst) i, 0)

/-- VCVT: each element below both element counts; further active elements become zero bits. -/
def execVcvt (gd : Guard) (t : BitVec 4) (d a : BitVec 5) (e : BitVec 4) (z : Bool) (s : State) : Out :=
  s.guarded gd fun s =>
    let reads := if z then [a, d] else [a]
    s.vissue reads [d] (s.vcheck a e false :: (if z then [s.vcheck d t false] else [])) fun s =>
      let n := 2048 / tagBits e
      .next (s.vput 3 t d z (s.vsens reads z .pub) ((List.range (2048 / tagBits t)).map (fun i =>
        if i < n then cvtElem t e s.rm s.sat ((s.vreg a).lane (tagBits e) i) else (0, 0))))

/-- VCAST: the bits unchanged under a new tag; any source tag. -/
def execVcast (gd : Guard) (t : BitVec 4) (d a : BitVec 5) (s : State) : Out :=
  s.guarded gd fun s => s.vissue [a] [d] [] fun s =>
    .next (s.pushV 3 d (s.vreg a).val t (s.vreg a).sens 0)

/-- VCBX: 128 codebook indices of part p become bf16 entries of a q register. -/
def execVcbx (gd : Guard) (d a : BitVec 5) (h q : BitVec 2) (z : Bool) (s : State) : Out :=
  s.guarded gd fun s =>
    let cb := s.cur.readQ q
    let reads := if z then [a, d] else [a]
    s.vissue reads [d] ([s.vcheck a 14 false, (decide (cb.fmt = 8), tagTrapVal q.toNat true cb.fmt 8)] ++
        (if z then [s.vcheck d 8 false] else [])) fun s =>
      .next (s.vput 3 8 d z (s.vsens reads z cb.sens) ((List.range 128).map (fun i =>
        (cb.val.toNat / 2 ^ (16 * (s.vreg a).lane 4 (128 * h.toNat + i)) % 65536, 0))))

/-- The weight of an s8 lane as a trit digit (R75, R390). -/
def digitOf (x : Nat) : Nat := if x = 1 then 1 else if x = 255 then 2 else 0

/-- VPK5: 240 lanes to 48 bytes of part p; the other bytes of d stay. -/
def execVpk5 (gd : Guard) (d a : BitVec 5) (k : BitVec 3) (s : State) : Out :=
  s.guarded gd fun s => s.vissue [a, d] [d] [s.vcheck a 1 false, s.vcheck d 15 false] fun s =>
    let lanes := (elemsOf 8 (s.vreg a).val).take 240
    match lanes.findIdx? (fun x => !(x = 0 || x = 1 || x = 255)) with
    | some i => s.raise 0x09 (BitVec.ofNat 64 i)
    | none =>
      let packed (j : Nat) : Nat :=
        let dg (i : Nat) : Nat := digitOf (lanes.getD (5 * j + i) 0)
        dg 0 + 3 * dg 1 + 9 * dg 2 + 27 * dg 3 + 81 * dg 4
      let p := 48 * k.toNat
      let bytes := (elemsOf 8 (s.vreg d).val).zipIdx.map (fun (x : Nat × Nat) =>
        if p ≤ x.2 && x.2 < p + 48 then packed (x.2 - p) else x.1)
      .next (s.pushV 3 d (ofElems 8 bytes) 15 ((s.vreg a).sens.max (s.vreg d).sens) 0)

/-- VUPK5: 48 bytes of part p to 240 lanes; lanes 240 to 255 become 0. -/
def execVupk5 (gd : Guard) (d a : BitVec 5) (k : BitVec 3) (s : State) : Out :=
  s.guarded gd fun s => s.vissue [a] [d] [s.vcheck a 15 false] fun s =>
    let p := 48 * k.toNat
    let bytes := ((elemsOf 8 (s.vreg a).val).drop p).take 48
    match bytes.findIdx? (fun b => b ≥ 243) with
    | some j => s.raise 0x09 (BitVec.ofNat 64 (p + j))
    | none =>
      let lanes := bytes.flatMap (fun b => (List.range 5).map (fun i => wrapInt 8 (tritOf (BitVec.ofNat 8 b) i)))
      .next (s.pushV 3 d (ofElems 8 lanes) 1 (s.vreg a).sens 0)

/-! ### Floating point (R374, R375) -/

/-- VFADD. -/
def execVfadd (gd : Guard) (t : BitVec 4) (d a b : BitVec 5) (z : Bool) (s : State) : Out :=
  s.floatWise gd t d a b z FFmt.add
/-- VFSUB. -/
def execVfsub (gd : Guard) (t : BitVec 4) (d a b : BitVec 5) (z : Bool) (s : State) : Out :=
  s.floatWise gd t d a b z FFmt.sub
/-- VFMUL. -/
def execVfmul (gd : Guard) (t : BitVec 4) (d a b : BitVec 5) (z : Bool) (s : State) : Out :=
  s.floatWise gd t d a b z FFmt.mulR
/-- VFMA: d is a source; one rounding (R80). -/
def execVfma (gd : Guard) (t : BitVec 4) (d a b : BitVec 5) (z : Bool) (s : State) : Out :=
  s.elementwise gd 4 t d z [a, b, d] false fun s i =>
    let w := tagBits t
    match ffmt t with
    | some k => k.fma s.rm ((s.vreg a).lane w i) ((s.vreg b).lane w i) ((s.vreg d).lane w i)
    | none => (0, 0)
/-- VFMIN (R72). -/
def execVfmin (gd : Guard) (t : BitVec 4) (d a b : BitVec 5) (z : Bool) (s : State) : Out :=
  s.floatWise gd t d a b z (fun k _ x y => (k.minmax false x y, 0))
/-- VFMAX (R72). -/
def execVfmax (gd : Guard) (t : BitVec 4) (d a b : BitVec 5) (z : Bool) (s : State) : Out :=
  s.floatWise gd t d a b z (fun k _ x y => (k.minmax true x y, 0))

/-- VDOT (R79): four exact products added to d, wrapped or saturated once. -/
def execVdot (gd : Guard) (d a b : BitVec 5) (z : Bool) (s : State) : Out :=
  s.guarded gd fun s => s.vissue [a, b, d] [d] [s.vcheck a 1 false, s.vcheck b 1 false, s.vcheck d 5 false] fun s =>
    let elem (i : Nat) : Nat × BitVec 7 :=
      let prod (j : Nat) : Int := readInt 1 ((s.vreg a).lane 8 (4 * i + j)) * readInt 1 ((s.vreg b).lane 8 (4 * i + j))
      let sum := readInt 5 ((s.vreg d).lane 32 i) + prod 0 + prod 1 + prod 2 + prod 3
      let c := if s.sat then clampInt (intMin 5) (intMax 5) sum else sum
      (wrapInt 32 c, flagIf (c != sum) flSAT)
    .next (s.vput 4 5 d z (s.vsens [a, b, d] z .pub) ((List.range 64).map elem))

/-- VFDOT (R80): two exact products and their exact sum, then one rounded addition to d. -/
def execVfdot (gd : Guard) (d a b : BitVec 5) (z : Bool) (s : State) : Out :=
  s.guarded gd fun s => s.vissue [a, b, d] [d] [s.vcheck a 8 false, s.vcheck b 8 false, s.vcheck d 10 false] fun s =>
    let elem (i : Nat) : Nat × BitVec 7 :=
      let prod (j : Nat) : Term :=
        (bf16Fmt.read ((s.vreg a).lane 16 (2 * i + j))).mul (bf16Fmt.read ((s.vreg b).lane 16 (2 * i + j)))
      f32Fmt.sum s.rm [prod 0, prod 1, (f32Fmt.read ((s.vreg d).lane 32 i)).term]
    .next (s.vput 4 10 d z (s.vsens [a, b, d] z .pub) ((List.range 64).map elem))

/-- Limit one element (R372). -/
def clampElem (t : Tag) (x lo hi : Nat) : Nat :=
  match ffmt t with
  | some f => f.minmax false (f.minmax true x lo) hi
  | none =>
    let m := if readInt t x ≤ readInt t lo then lo else x
    if readInt t m ≤ readInt t hi then m else hi

/-- VCLAMP. -/
def execVclamp (gd : Guard) (t : BitVec 4) (d a b : BitVec 5) (z : Bool) (s : State) : Out :=
  s.elementwise gd (if tagInt t then 2 else 4) t d z [a, b, b + 1] false fun s i =>
    let w := tagBits t
    (clampElem t ((s.vreg a).lane w i) ((s.vreg b).lane w i) ((s.vreg (b + 1)).lane w i), 0)

/-! ### Comparisons (R373) -/

/-- The condition of VCMP and VFCMP, from two orders and equality. -/
def vcond (b : BitVec 5) (lt gt eq : Bool) : Bool :=
  match b.toNat with
  | 0 => eq
  | 1 => !eq
  | 2 => lt
  | 3 => gt || eq
  | 4 => lt || eq
  | _ => gt

/-- Write a mask from the comparisons of a register pair; every active element sets the mask bits of its bytes. -/
def State.vcompare (s : State) (gd : Guard) (l : Nat) (t : Tag) (m : BitVec 3) (a : BitVec 5) (z : Bool)
    (f : Nat → Nat → Bool) : Out :=
  s.guarded gd fun s => s.vissue [a, a + 1] [] [s.vcheck a t false, s.vcheck (a + 1) t false] fun s =>
    let w := tagBits t
    let old := s.cur.readM m
    let bits := (List.range 256).map (fun j =>
      if s.activeLane z w (j / (w / 8)) then
        (f ((s.vreg a).lane w (j / (w / 8))) ((s.vreg (a + 1)).lane w (j / (w / 8)))).toNat
      else (old.val.getLsbD j).toNat)
    let sens := s.vsens [a, a + 1] z (if z then old.sens else .pub)
    .next (s.modCur (fun c => c.push l (.m m) (BitVec.ofNat 2048 (joinBits 1 bits)) 0 sens 0))

/-- VCMP. -/
def execVcmp (gd : Guard) (t : BitVec 4) (m : BitVec 3) (a b : BitVec 5) (z : Bool) (s : State) : Out :=
  s.vcompare gd 2 t m a z (fun x y =>
    vcond b (readInt t x < readInt t y) (readInt t y < readInt t x) (readInt t x = readInt t y))

/-- VFCMP: a NaN makes every condition false but ne (R72). -/
def execVfcmp (gd : Guard) (t : BitVec 4) (m : BitVec 3) (a b : BitVec 5) (z : Bool) (s : State) : Out :=
  s.vcompare gd 4 t m a z (fun x y =>
    match ffmt t with
    | some k =>
      let u := k.read x
      let v := k.read y
      if u.isNan || v.isNan then b = 1 else vcond b (u.lt v) (v.lt u) (!(u.lt v) && !(v.lt u))
    | none => false)

/-! ### Rearrangement (R389, R394) -/

/-- VPERM: the index register may carry raw or any integer type of width w. -/
def execVperm (gd : Guard) (t : BitVec 4) (d a b : BitVec 5) (z : Bool) (s : State) : Out :=
  s.guarded gd fun s =>
    let w := tagBits t
    let reads := if z then [a, b, d] else [a, b]
    let ix := (s.vreg b).fmt
    s.vissue reads [d] ([s.vcheck a t true,
        (ix = 0 || (tagInt ix && tagBits ix = w), tagTrapVal b.toNat false ix t)] ++
        (if z then [s.vcheck d t false] else [])) fun s =>
      .next (s.vput 3 t d z (s.vsens reads z .pub) ((List.range (2048 / w)).map (fun i =>
        ((s.vreg a).lane w ((s.vreg b).lane w i % (2048 / w)), 0))))

/-- VSLIDE: 256 bytes from byte 8k of a register pair; any source tag where the type is raw. -/
def execVslide (gd : Guard) (t : BitVec 4) (d a b : BitVec 5) (z : Bool) (s : State) : Out :=
  s.guarded gd fun s =>
    let reads := if z then [a, a + 1, d] else [a, a + 1]
    s.vissue reads [d] ((if t = 0 then [] else [s.vcheck a t true, s.vcheck (a + 1) t true]) ++
        (if z then [s.vcheck d t false] else [])) fun s =>
      let pair := (s.vreg a).val.toNat + 2 ^ 2048 * (s.vreg (a + 1)).val.toNat
      let w := opBits t
      .next (s.vput 3 t d z (s.vsens reads z .pub)
        ((splitBits w (2048 / w) (pair / 2 ^ (64 * b.toNat))).map (fun x => (x, 0))))

/-- VSEL: its tag is the sources' common tag, or that of the one that is not raw. -/
def execVsel (gd : Guard) (m : BitVec 3) (d a b : BitVec 5) (s : State) : Out :=
  s.guarded gd fun s => s.vissue [a, b] [d] [] fun s =>
    let x := s.vreg a
    let y := s.vreg b
    if x.fmt != y.fmt && x.fmt != 0 && y.fmt != 0 then s.raise 0x04 (tagTrapVal b.toNat false y.fmt x.fmt)
    else
      let t := if x.fmt = 0 then y.fmt else x.fmt
      let w := grainBits t
      let mk := s.cur.readM m
      let es := (List.range (2048 / w)).map (fun i => if maskBit mk.val w i then x.lane w i else y.lane w i)
      .next (s.pushV 2 d (ofElems w es) t ((x.sens.max y.sens).max mk.sens) 0)

/-! ### Reductions (R77, R78, R392) -/

/-- Combine the elements of a level in pairs; a side without an active element lets the other pass. -/
def redLevel (f : Nat → Nat → Nat × BitVec 7) : List (Option Nat) → List (Option Nat) × BitVec 7
  | some x :: some y :: t =>
    let r := f x y
    let rest := redLevel f t
    (some r.1 :: rest.1, r.2 ||| rest.2)
  | some x :: none :: t => let rest := redLevel f t; (some x :: rest.1, rest.2)
  | none :: y :: t => let rest := redLevel f t; (y :: rest.1, rest.2)
  | [x] => ([x], 0)
  | [] => ([], 0)

/-- The pairwise tree over the levels. -/
def redTree (f : Nat → Nat → Nat × BitVec 7) : Nat → List (Option Nat) → Option Nat × BitVec 7
  | 0, xs => (xs.headD none, 0)
  | n + 1, xs =>
    let r := redLevel f xs
    let rest := redTree f n r.1
    (rest.1, r.2 ||| rest.2)

/-- One combination of VRED: 0 add, 1 min, 2 max. -/
def redFn (t : Tag) (rm fn : Nat) (x y : Nat) : Nat × BitVec 7 :=
  match ffmt t with
  | some f => if fn = 0 then f.add rm x y else (f.minmax (fn = 2) x y, 0)
  | none =>
    if fn = 0 then ((x + y) % 2 ^ tagBits t, 0)
    else if fn = 1 then (if readInt t x ≤ readInt t y then x else y, 0)
    else (if readInt t y ≤ readInt t x then x else y, 0)

/-- The result where no element is active. -/
def redEmpty (t : Tag) (fn : Nat) : Nat :=
  match ffmt t with
  | some f => if fn = 0 then 0 else f.nan
  | none => 0

/-- VRED: m0 selects the inputs; the other elements of d become 0, or stay where Z = 1. -/
def execVred (gd : Guard) (t : BitVec 4) (d a b : BitVec 5) (z : Bool) (s : State) : Out :=
  s.guarded gd fun s =>
    let reads := if z then [a, d] else [a]
    s.vissue reads [d] (reads.map (fun r => s.vcheck r t false)) fun s =>
      let w := tagBits t
      let n := 2048 / w
      let xs := (List.range n).map (fun i => if s.activeLane z w i then some ((s.vreg a).lane w i) else none)
      let (r, fl) := redTree (redFn t s.rm b.toNat) (Nat.log2 n) xs
      let es := (r.getD (redEmpty t b.toNat)) :: (if z then (elemsOf w (s.vreg d).val).drop 1 else [])
      .next (s.pushV 6 d (ofElems w es) t (s.vsens reads z .pub) fl)

/-- The prefix sums of the active elements (R78): outputs with their flags. -/
def scanList (f : Nat → Nat → Nat × BitVec 7) : Option Nat → List (Option Nat) → List (Nat × BitVec 7)
  | _, [] => []
  | run, none :: t => (0, 0) :: scanList f run t
  | none, some x :: t => (x, 0) :: scanList f (some x) t
  | some r, some x :: t => let y := f r x; y :: scanList f (some y.1) t

/-- VSCAN: the inclusive prefix sum. -/
def execVscan (gd : Guard) (t : BitVec 4) (d a : BitVec 5) (z : Bool) (s : State) : Out :=
  s.guarded gd fun s =>
    let reads := if z then [a, d] else [a]
    s.vissue reads [d] (reads.map (fun r => s.vcheck r t false)) fun s =>
      let w := tagBits t
      let xs := (List.range (2048 / w)).map (fun i => if s.activeLane z w i then some ((s.vreg a).lane w i) else none)
      .next (s.vput 6 t d z (s.vsens reads z .pub) (scanList (redFn t s.rm 0) none xs))

end Sys2Proof.Machine
end

