-- ==== Sys2Proof/Machine/MemOps.lean ====
section
/-! DEFINITION. Memory syllables and what becomes of their accesses: LD, ST, VLD, VST, VLDS, VGTH, VSCT, PROBE and FENCE;
returns, stores performed, publications and PROBE fills (R86 to R106, R111 to R116, R326 to R328, R339 to R341, R360 to
R362, R377 to R385). -/

namespace Sys2Proof.Machine

/-! ### Where an M-slot access goes (R86 to R88) -/

/-- A checked address: a buffer, an S address of the program, or a global address. -/
inductive SlotAt where
  | buf (yspace : Bool) (a : Nat)
  | sp (a : Nat)
  | glob (va : Nat)
deriving DecidableEq, Repr

/-- Space, extent, high bits and alignment of an M-slot access, in the order of R328; a cause where one fails. -/
def State.slotAt (s : State) (c : BitVec 3) (ea : Word) (n align : Nat) : Except (BitVec 8) SlotAt :=
  let a := ea.toNat
  match c.toNat with
  | 0 => if xLen < a + n then .error 0x06 else if a % align != 0 then .error 0x07 else .ok (.buf false a)
  | 1 => if yLen < a + n then .error 0x06 else if a % align != 0 then .error 0x07 else .ok (.buf true a)
  | 3 =>
    if (s.window s.issue.core s.cur.part).2 < a + n then .error 0x06
    else if a % align != 0 then .error 0x07 else .ok (.sp a)
  | 4 => if a / 2 ^ 56 != 0 then .error 0x10 else if a % align != 0 then .error 0x07 else .ok (.glob a)
  | _ => .error 0x06

/-- The bank address of an S address for the issuing context (R94). -/
def State.phys (s : State) (a : Nat) : Nat := s.sPhys s.issue.core s.cur.part s.cur.hashKey a

/-- The cluster of the issuing core. -/
def State.myCluster (s : State) : Nat := clusterOf s.issue.core

/-- S accesses have no page; this number is no page of 56-bit addresses. -/
def noPage (part : Nat) : Miss := ⟨part, 2 ^ 60, false⟩

/-- A translation trap of an M slot (R217): the denial is forgotten, so a later access asks again (log 10). -/
def State.raiseMem (s : State) (cause : BitVec 8) (val : Word) : Out :=
  (s.forgetDenial (.slot s.who) (dieOf s.issue.core) s.cur.part).raise cause val

/-- A piece of an access that has been reached: place, home address, program address, page, offset in the access, length. -/
structure Piece where
  place : Place
  addr : Nat
  va : Nat
  page : Miss
  off : Nat
  len : Nat
deriving DecidableEq, Repr

/-- The causes by which a page refuses an access, in the order of R380 items 8 to 10 and R385. -/
def refusalCauses : List (BitVec 8) := [0x10, 0x06, 0x11, 0x05]

/-- Reach the global pieces of an access (R217): every page must hit; then the lowest item that some page refuses traps, at its first piece
(R380, R385). -/
def State.reachAll (s : State) (k : Access) (sens : Sens) (ps : List (Nat × Nat × Nat)) :
    Except (BitVec 8 × Word) (List Piece) ⊕ List Miss :=
  let rs := ps.map (fun (p : Nat × Nat × Nat) => (p, s.reach s.who s.cur.part k sens p.1))
  let misses := rs.filterMap (fun r => match r.2 with
    | .block m => some m
    | _ => none)
  if !misses.isEmpty then .inr misses.dedup
  else
    let traps := rs.filterMap (fun r => match r.2 with
      | .trap c v => some (c, v)
      | _ => none)
    match refusalCauses.findSome? (fun c => traps.find? (fun t => t.1 = c)) with
    | some t => .inl (.error t)
    | none =>
      .inl (.ok (rs.filterMap (fun r => match r.2 with
        | .ok p a m => some ⟨p, a, r.1.1, m, r.1.2.1, r.1.2.2⟩
        | _ => none)))

/-- A global access whose pages miss blocks, whatever its bundle would raise (R31). -/
def State.awaitPages (s : State) (c : BitVec 3) (k : Access) (sens : Sens) (ps : List (Nat × Nat × Nat)) (f : State → Out) : Out :=
  if c.toNat = 4 then
    match s.reachAll k sens ps with
    | .inr ms => s.blockMiss ms
    | _ => f s
  else f s

/-- The line pieces of a run of global bytes: address, offset, length (R101). -/
def linePieces (va n : Nat) : List (Nat × Nat × Nat) :=
  (List.range ((va + n + 63) / 64 - va / 64)).map (fun i =>
    let lo := max va ((va / 64 + i) * 64)
    let hi := min (va + n) ((va / 64 + i + 1) * 64)
    (lo, lo - va, hi - lo))

/-! ### Issuing variable-latency operations (R36) -/

/-- A run of bytes that a load reads, with what rules 1 and 2 of R115 fix now. -/
def State.loadUnit (s : State) (p : Piece) : LoadUnit :=
  let own := s.ownStores s.who
  ⟨p.place, p.addr, p.va, p.len, p.off,
    (List.range p.len).map (fun i => s.fixedByte s.who own s.cur.phase p.place (p.addr + i)), p.page⟩

/-- The places that an outstanding operation reaches. -/
def OpKind.places : OpKind → List (Place × Nat)
  | .load us _ _ => us.map (fun u => (u.place, u.addr))
  | .amo p a .. => [(p, a)]
  | .cas p a .. => [(p, a)]
  | .casl p a .. => [(p, a)]
  | .red p a .. => [(p, a)]
  | .cread (.memory p a) _ => [(p, a)]
  | .cread (.sword c a) _ => [(.s c, a)]
  | _ => []

/-- The dies and packages that an operation of a context travels to (R136). -/
def State.opDests (s : State) (w : Who) (k : OpKind) : List Nat :=
  match k with
  | .cread key _ => (s.ctrDest w key).toList
  | k => (k.places.filterMap (fun x => s.destOf w x.1 x.2)).eraseDups

/-- What an operation is on its flows. -/
def OpKind.item (k : OpKind) (w : Who) (id : Nat) : FlowItem :=
  match k with
  | .red .. => .red w id
  | _ => .load w id

def VlOp.item (o : VlOp) (w : Who) : FlowItem := o.kind.item w o.id

/-- Put an operation of the issuing context in flight, its destinations discarded where a result of the trapped code has landed over them
already (R23, R201); what travels to another die or package goes on its flow (R136). -/
def State.issueOp (s : State) (k : OpKind) (va : Nat) (sens : Sens) (ord : BitVec 2) (scope : Scope) (pub rel : Option Nat)
    (result : Option OpResult) (wait : Nat) : State :=
  let (n, s) := s.fresh
  let id := s.cur.seq
  let u := s.modCur (fun c => { c with
    ops := c.ops ++ ([(⟨c.seq, c.era, n, k, va, sens, ord, scope, c.phase, c.vis, pub, rel, result,
      c.landed.filter (fun d => k.dests.contains d), wait⟩ : VlOp)])
    seq := c.seq + 1 })
  (s.opDests s.who k).foldl (fun (v : State) d => v.enqueueFlow s.who s.cur.part d (k.item s.who id)) u

/-- A load from S or global memory goes in flight and counts in GL. -/
def State.issueLoad (s : State) (ps : List Piece) (dest : Reg) (fmt : Tag) (va : Nat) (sens : Sens) : State :=
  (s.issueOp (.load (ps.map s.loadUnit) dest fmt) va sens 0 .core none none none 0).modCur (fun c => c.bump .gl 1)

/-! ### LD and VLD (R326 to R328, R382 to R385) -/

/-- The value of bytes as a register holds it. -/
def vOfBytes (bs : List Byte) : VWord := BitVec.ofNat 2048 (leNat bs)

/-- A trap that precedes a syllable's address checks, if it has one, comes after its block conditions (R31). -/
def State.unless (s : State) (early : Option (BitVec 8 × Word)) (f : State → Out) : Out :=
  match early with
  | some (c, v) => s.raise c v
  | none => f s

/-- Load n bytes to a register. `early` is the cause that precedes the address checks; `okFmt` is the line check of R385 item 7; `tagOf`
gives the tag from a line, or from none for global memory. A load from S takes its line's FMT as it stands at issue, where R96 reads the
bank, whatever another agent stores before the return (DESIGN CHOICE, log 62). -/
def State.load (s : State) (c : BitVec 3) (ea : Word) (n align : Nat) (dest : Reg) (early : Option (BitVec 8 × Word))
    (okFmt : Tag → Bool) (tagOf : Option Tag → Tag) : Out :=
  let go (s : State) : Out :=
    match s.slotAt c ea n align with
    | .error cause => s.awaitPages c .load .pub (linePieces ea.toNat n) fun s => s.unless early fun s => s.raise cause ea
    | .ok (.buf y a) =>
      s.unless early fun s =>
      let k := s.core s.issue.core
      let t := (k.bufTags y).get LineTag.reset (a / 256)
      if !okFmt t.fmt then s.raise 0x04 (BitVec.ofNat 64 (a / 256 * 256))
      else if !k.bufOk y a n then s.raise 0x0F ea
      else .next (s.modCur (fun c => c.push 3 dest (vOfBytes ((k.buf y).bytes a n)) (tagOf (some t.fmt)) t.sens 0))
    | .ok (.sp a) =>
      s.unless early fun s =>
      let ph := s.phys a
      let t := s.sTag s.who s.myCluster ph
      if !okFmt t.fmt then s.raise 0x04 (BitVec.ofNat 64 (a / 256 * 256))
      else if !s.rangeOk (.s s.myCluster) ph n then s.raise 0x0F ea
      else
        .next ((s.perfWho s.who 18 1).issueLoad [⟨.s s.myCluster, ph, a, noPage s.cur.part, 0, n⟩] dest (tagOf (some t.fmt)) a
          t.sens)
    | .ok (.glob va) =>
      match s.reachAll .load .pub (linePieces va n) with
      | .inr ms => s.blockMiss ms
      | .inl r =>
        s.unless early fun s =>
        match r with
        | .error (cause, _) => s.raiseMem cause ea
        | .ok ps =>
          let sens := ps.foldl (fun (acc : Sens) (p : Piece) => acc.max (s.pageSens p.place p.addr)) .pub
          .next (s.issueLoad ps dest (tagOf none) va sens)
  if c.toNat = 3 || c.toNat = 4 then s.roomFor .gl 1 go else go s

/-- LD (R326): zero-extended; an offset in units of the size. -/
def execLd (gd : Guard) (r b : BitVec 5) (c : BitVec 3) (z : BitVec 2) (o : BitVec 5) (s : State) : Out :=
  s.guarded gd fun s =>
    let n := 2 ^ z.toNat
    s.load c (s.ea b (o.toNat * n)) n n (.g r) none (fun _ => true) (fun _ => 0)

/-- The destination of a VLD: a v register, or a q register in the codebook form. -/
def vldDest (r : BitVec 5) (q : Bool) : Reg := if q then .q (r.setWidth 2) else .v r

/-- Bytes and alignment of a VLD or VST (R88, R382). -/
def vldAlign (c : BitVec 3) (q : Bool) : Nat := if q then 32 else if c = 4 then 64 else 256

/-- The tag that a VLD gives its register (R383). -/
def vldTag (t : Tag) (q : Bool) (line : Option Tag) : Tag :=
  if t != 0 then t
  else
    match line with
    | none => 0
    | some f => if q then (if f = 8 then 8 else 0) else f

/-- VLD (R383, R385). -/
def execVld (gd : Guard) (r b : BitVec 5) (c : BitVec 3) (t : BitVec 4) (q : Bool) (o : BitVec 2) (s : State) : Out :=
  s.guarded gd fun s =>
    s.load c (s.ea b (o.toNat * 256)) (if q then 32 else 256) (vldAlign c q) (vldDest r q)
      (if !q && s.v31Busy r then some (0x17, 0) else none) (fun f => t = 0 || f = 0 || f = t) (vldTag t q)

/-! ### ST and VST (R360 to R362, R384, R385) -/

/-- The 64-byte lines of stores. -/
def storeLines (ts : List Store) : List (Place × Nat) :=
  ts.flatMap (fun (t : Store) =>
    (List.range ((t.addr + t.bytes.length + 63) / 64 - t.addr / 64)).map (fun i => (t.place, t.addr / 64 + i)))

/-- Lines that a context would hold unpublished with more (R212). -/
def State.heldLines (s : State) (w : Who) (more : List (Place × Nat)) : Nat :=
  ((storeLines (s.ownStores w) ++ more).dedup).length

/-- Hold stores of the issuing bundle (R111), counted in GS while it issues (R361). -/
def State.holdStores (s : State) (ts : List Store) : Out :=
    .next (({ s with issue := { s.issue with memStores := s.issue.memStores ++ ts } }).modCur (fun c => c.bump .gs 1))

/-- A store record of the issuing context. -/
def State.mkStore (s : State) (p : Place) (a : Nat) (page : Miss) (bs : List Byte) (fmt : Tag) (sens : Sens) :
    Store × State :=
  let (n, s) := s.fresh
  (⟨n, s.cur.phase, p, a, bs, fmt, sens, page⟩, s)

/-- The lines at their homes that pieces of global addresses touch, where their translations are held. -/
def State.touchedLines (s : State) (ps : List (Nat × Nat × Nat)) : List (Place × Nat) :=
  ps.flatMap (fun p => match s.lookup (.slot s.who) (dieOf s.issue.core) s.cur.part p.1 true with
    | .hit pl a => (List.range ((a + p.2.2 + 63) / 64 - a / 64)).map (fun i => (pl, a / 64 + i))
    | _ => [])

/-- A store that would hold a 193rd line blocks (R212), whatever it would raise (R31). -/
def State.lineRoom (s : State) (keys : List (Place × Nat)) (f : State → Out) : Out :=
  let new := storeLines s.issue.memStores ++ keys
  if 192 < s.heldLines s.who new then s.blockOn (.lines new) else f s

/-- Store bytes from a register (R361, R362, R384, R385): X and Y in the issue cycle, S and global as unpublished stores. `early` is the
cause that precedes the address checks. -/
def State.storeBytes (s : State) (c : BitVec 3) (ea : Word) (align : Nat) (early : Option (BitVec 8 × Word)) (bs : List Byte)
    (fmt : Tag) (sens : Sens) (transom : Bool) : Out :=
  let n := bs.length
  let go (s : State) : Out :=
    match s.slotAt c ea n align with
    | .error cause => s.awaitPages c .store sens (linePieces ea.toNat n) fun s => s.unless early fun s => s.raise cause ea
    | .ok (.buf y a) =>
      s.unless early fun s =>
      .next { s with issue := { s.issue with bufStores := s.issue.bufStores ++ [⟨transom, y, a, bs, fmt, sens⟩] } }
    | .ok (.sp a) =>
      s.lineRoom ((List.range ((s.phys a + n + 63) / 64 - s.phys a / 64)).map (fun i => (.s s.myCluster, s.phys a / 64 + i))) fun s =>
      s.unless early fun s =>
      let (t, s) := s.mkStore (.s s.myCluster) (s.phys a) (noPage s.cur.part) bs fmt sens
      (s.perfWho s.who 18 1).holdStores [t]
    | .ok (.glob va) =>
      match s.reachAll .store sens (linePieces va n) with
      | .inr ms => s.blockMiss ms
      | .inl r =>
        s.lineRoom (s.touchedLines (linePieces va n)) fun s =>
        s.unless early fun s =>
        match r with
        | .error (cause, _) => s.raiseMem cause ea
        | .ok ps =>
          let r := ps.foldl (fun (acc : List Store × State) (p : Piece) =>
            let (t, u) := acc.2.mkStore p.place p.addr p.page ((bs.drop p.off).take p.len) fmt sens
            (acc.1 ++ [t], u)) ([], s)
          r.2.holdStores r.1
  if c.toNat = 3 || c.toNat = 4 then s.roomFor .gs 1 go else go s

/-- ST (R360): scalar stores count as raw data. -/
def execSt (gd : Guard) (r b : BitVec 5) (c : BitVec 3) (z : BitVec 2) (o : BitVec 5) (s : State) : Out :=
  s.guarded gd fun s =>
    let n := 2 ^ z.toNat
    s.storeBytes c (s.ea b (o.toNat * n)) n none (leBytes n (s.gw r).toNat) 0 (s.gsens r) false

/-- VST (R384): a v register, or a q register in the codebook form. -/
def execVst (gd : Guard) (r b : BitVec 5) (c : BitVec 3) (t : BitVec 4) (q : Bool) (o : BitVec 2) (s : State) : Out :=
  s.guarded gd fun s =>
    let ea := s.ea b (o.toNat * 256)
    if q then
      let x := s.cur.readQ (r.setWidth 2)
      s.storeBytes c ea 32 (if t != 0 && x.fmt != t && x.fmt != 0 then some (0x04, tagTrapVal (r.toNat % 4) true x.fmt t) else none)
        (leBytes 32 x.val.toNat) x.fmt x.sens false
    else
      let x := (s.readV r).getD VReg.reset
      let early : Option (BitVec 8 × Word) :=
        if (s.readV r).isNone then some (0x17, 0)
        else if t != 0 && x.fmt != t && x.fmt != 0 then some (0x04, tagTrapVal r.toNat false x.fmt t) else none
      s.storeBytes c ea (vldAlign c q) early (leBytes 256 x.val.toNat) x.fmt x.sens (s.v31Busy r)

/-! ### Element accesses (R377 to R380) -/

/-- The active elements of VLDS, VGTH and VSCT with their addresses. -/
def State.elements (s : State) (t : Tag) (m : Nat) (addr : Nat → Word) : List (Nat × Word) :=
  let w := tagBits t
  ((List.range m).filter (fun i => maskBit (s.cur.readM 0).val w i)).map (fun i => (i, addr i))

/-- The addresses of VGTH and VSCT: base and n32 indices in units of the element (R378). -/
def State.gatherAddr (s : State) (b : BitVec 5) (ix : VReg) (t : Tag) (i : Nat) : Word :=
  s.gw b + BitVec.ofNat 64 (ix.lane 32 i * (tagBits t / 8))

/-- Check the elements by items 4 to 6 of R380: the lowest item that some element meets, at its first element. Space 2 or 5 traps with no
element active too, and TRAPVAL is then 0: there is no offending address (DESIGN CHOICE, log 63). -/
def State.checkElements (s : State) (c : BitVec 3) (n : Nat) (es : List (Nat × Word)) : Option (BitVec 8 × Word) :=
  let bad (k : BitVec 8) : Option (BitVec 8 × Word) :=
    (es.find? (fun e => match s.slotAt c e.2 n n with
      | .error x => x = k
      | .ok _ => false)).map (fun e => (k, e.2))
  if c = 2 || c = 5 then some (0x06, (es.head?.map Prod.snd).getD 0)
  else (bad 0x06).orElse (fun _ => (bad 0x10).orElse (fun _ => bad 0x07))

/-- Reach the elements of an access in the order of R380 items 8 to 10; or the pages that miss. -/
def State.reachElements (s : State) (k : Access) (sens : Sens) (n : Nat) (es : List (Nat × Word)) :
    Except (BitVec 8 × Word) (List Piece) ⊕ List Miss :=
  s.reachAll k sens (es.map (fun e => (e.2.toNat, e.1, n)))

/-- VLDS and VGTH (R378, R379): inactive and missing elements are 0; the accesses count in GL. -/
def State.gather (s : State) (r : BitVec 5) (c : BitVec 3) (t : Tag) (es : List (Nat × Word)) : Out :=
  let n := tagBits t / 8
  match s.checkElements c n es with
  | some (cause, v) => s.raise cause v
  | none =>
    let ms := (s.cur.readM 0).sens
    match c.toNat with
    | 4 =>
      (match s.reachElements .load .pub n es with
      | .inr ms => s.blockMiss ms
      | .inl (.error (cause, v)) => s.raiseMem cause v
      | .inl (.ok ps) =>
        let sens := ps.foldl (fun (acc : Sens) (p : Piece) => acc.max (s.pageSens p.place p.addr)) ms
        let ps := ps.map (fun (p : Piece) => { p with off := p.off * n })
        .next (s.issueLoad ps (.v r) t ((es.head?.map (fun e => e.2.toNat)).getD 0) sens))
    | 3 =>
      (match es.find? (fun e => !s.rangeOk (.s s.myCluster) (s.phys e.2.toNat) n) with
      | some e => s.raise 0x0F e.2
      | none =>
        let sens := es.foldl (fun (acc : Sens) e => acc.max (s.sTag s.who s.myCluster (s.phys e.2.toNat)).sens) ms
        let ps := es.map (fun e => (⟨.s s.myCluster, s.phys e.2.toNat, e.2.toNat, noPage s.cur.part, e.1 * n, n⟩ : Piece))
        .next ((s.perfWho s.who 18 es.length).issueLoad ps (.v r) t ((es.head?.map (fun e => e.2.toNat)).getD 0) sens))
    | sp =>
      let k := s.core s.issue.core
      let y := sp = 1
      (match es.find? (fun e => !k.bufOk y e.2.toNat n) with
      | some e => s.raise 0x0F e.2
      | none =>
        let sens := es.foldl (fun (acc : Sens) e =>
          acc.max ((k.bufTags y).get LineTag.reset (e.2.toNat / 256)).sens) ms
        let val := es.foldl (fun (acc : Nat) e => acc + (k.buf y).num e.2.toNat n * 2 ^ (e.1 * n * 8)) 0
        .next ((s.issueOp (.load [] (.v r) t) 0 sens 0 .core none none
          (some ⟨[(.v r, BitVec.ofNat 2048 val, t)], none, [], []⟩) 3).modCur (fun c => c.bump .gl 1)))

/-- The block conditions of an element access come before every trap (R31): its pages that are not cached and, for a store, a 193rd line
(R212). -/
def State.elementBlocks (s : State) (c : BitVec 3) (k : Access) (sens : Sens) (n : Nat) (es : List (Nat × Word))
    (f : State → Out) : Out :=
  s.awaitPages c k sens (es.map (fun e => (e.2.toNat, e.1, n))) fun s =>
  if (s.checkElements c n es).isSome then f s
  else
    match c.toNat with
    | 4 => if k.writes then s.lineRoom (s.touchedLines (es.map (fun e => (e.2.toNat, e.1, n)))) f else f s
    | 3 => if k.writes then s.lineRoom (es.map (fun e => (.s s.myCluster, s.phys e.2.toNat / 64))) f else f s
    | _ => f s

/-- VLDS: a stride in g(base+1). -/
def execVlds (gd : Guard) (r b : BitVec 5) (c : BitVec 3) (t : BitVec 4) (s : State) : Out :=
  s.guarded gd fun s => s.roomFor .gl 1 fun s =>
    let es := s.elements t (2048 / tagBits t) (fun i => s.gw b + BitVec.ofNat 64 i * s.gw (b + 1))
    s.elementBlocks c .load .pub (tagBits t / 8) es fun s =>
    if s.v31Busy r then s.raise 0x17 0 else s.gather r c t es

/-- VGTH: indices in v(reg+1). -/
def execVgth (gd : Guard) (r b : BitVec 5) (c : BitVec 3) (t : BitVec 4) (s : State) : Out :=
  s.guarded gd fun s => s.roomFor .gl 1 fun s =>
    let es := s.elements t (min (2048 / tagBits t) 64) (s.gatherAddr b (s.vreg (r + 1)) t)
    s.elementBlocks c .load .pub (tagBits t / 8) es fun s =>
    s.vissue [r + 1] [r] [s.vcheck (r + 1) 6 false] fun s => s.gather r c t es

/-- VSCT: the elements of v(reg) at the indices of v(reg+1), in ascending order. -/
def execVsct (gd : Guard) (r b : BitVec 5) (c : BitVec 3) (t : BitVec 4) (s : State) : Out :=
  let go (s : State) : Out :=
    let w := tagBits t
    let n := w / 8
    let es := s.elements t (min (2048 / w) 64) (s.gatherAddr b (s.vreg (r + 1)) t)
    let sens := (s.vreg r).sens.max (s.cur.readM 0).sens
    s.elementBlocks c .store sens n es fun s =>
    s.vissue [r, r + 1] [] [s.vcheck (r + 1) 6 false, (decide ((s.vreg r).fmt = t ∨ (s.vreg r).fmt = 0),
        tagTrapVal r.toNat false (s.vreg r).fmt t)] fun s =>
      let data (i : Nat) : List Byte := leBytes n ((s.vreg r).lane w i)
      match s.checkElements c n es with
      | some (cause, v) => s.raise cause v
      | none =>
        match c.toNat with
        | 4 =>
          (match s.reachElements .store sens n es with
          | .inr ms => s.blockMiss ms
          | .inl (.error (cause, v)) => s.raiseMem cause v
          | .inl (.ok ps) =>
            let q := ps.foldl (fun (acc : List Store × State) (p : Piece) =>
              let (st, u) := acc.2.mkStore p.place p.addr p.page (data p.off) t sens
              (acc.1 ++ [st], u)) ([], s)
            q.2.holdStores q.1)
        | 3 =>
          let q := es.foldl (fun (acc : List Store × State) e =>
            let (st, u) := acc.2.mkStore (.s s.myCluster) (s.phys e.2.toNat) (noPage s.cur.part) (data e.1) t sens
            (acc.1 ++ [st], u)) ([], s)
          (q.2.perfWho s.who 18 es.length).holdStores q.1
        | sp =>
          let new := es.map (fun e => (⟨s.v31Busy r, decide (sp = 1), e.2.toNat, data e.1, t, sens⟩ : BufStore))
          .next { s with issue := { s.issue with bufStores := s.issue.bufStores ++ new } }
  s.guarded gd fun s => if c.toNat = 3 || c.toNat = 4 then s.roomFor .gs 1 go else go s

/-! ### Publication (R112, R113, R137) -/

/-- The stores of a publication travel to other dies and packages on their flows (R136). -/
def State.sendStores (s : State) (w : Who) (part pub : Nat) (ts : List Store) : State :=
  ts.foldl (fun (u : State) (t : Store) => match s.destOf w t.place t.addr with
    | some d => u.enqueueFlow w part d (.store pub t)
    | none => u) s

/-- The part of a store that lies in `[lo, hi)`. -/
def Store.part (t : Store) (lo hi : Nat) : Store :=
  { t with addr := lo, bytes := (t.bytes.drop (lo - t.addr)).take (hi - lo) }

/-- The bytes of a store as its phase fixes them (R115 rule 1). -/
def Store.phaseBytes (t : Store) : List PhaseByte :=
  t.bytes.zipIdx.map (fun b => ⟨t.phase, true, t.place, t.addr + b.2, t.id, b.1⟩)

/-- Stores of a context go under publication at their widest scope, and the rest of what it holds stays private; those to other dies and
packages travel on their flows (R136). -/
def State.publishPieces (s : State) (w : Who) (ts rest : List Store) : State :=
  if ts.isEmpty then s
  else
    let (pid, s) := s.fresh
    let s := { s with pubs := s.pubs ++ ([⟨pid, w, .fabric, ts, ts.map Store.id, false⟩] : List Pub) }
    (s.modCtx w (fun c => { c with stores := rest, phaseBytes := (ts.flatMap Store.phaseBytes).reverse ++ c.phaseBytes })).sendStores w
      (s.ctx w).part pid ts

/-- A store meets bytes of a location and comes before a number. -/
def Store.meets (t : Store) (born : Nat) (p : Place) (a n : Nat) : Bool :=
  t.id < born && t.place = p && overlaps t.addr t.bytes.length a n

/-- A context's private stores to some bytes that come before a number are sent to their home, published at its widest scope; its stores to
other bytes stay private (R126, R135). -/
def State.releaseOwn (s : State) (w : Who) (born : Nat) (p : Place) (a n : Nat) : State :=
  let ts := (s.ctx w).stores
  let cut (t : Store) : Nat × Nat := (max t.addr a, min (t.addr + t.bytes.length) (a + n))
  s.publishPieces w ((ts.filter (fun t => t.meets born p a n)).map (fun t => t.part (cut t).1 (cut t).2))
    (ts.flatMap (fun t =>
      if t.meets born p a n then
        [t.part t.addr (cut t).1, t.part (cut t).2 (t.addr + t.bytes.length)].filter (fun x => !x.bytes.isEmpty)
      else [t]))

/-- The stores of a context under publication to some bytes, from before a number, have been performed. -/
def State.ownPerformed (s : State) (w : Who) (born : Nat) (p : Place) (a n : Nat) : Bool :=
  !s.pubs.any (fun q => q.who = w && q.stores.any (fun t => t.meets born p a n))

/-- A release of a context (R112). -/
def State.release (s : State) (w : Who) (sc : Scope) (fence : Bool) : Nat × Option Nat × State :=
  let (rid, pid, s) := s.startRelease w sc fence
  match pid with
  | none => (rid, none, s)
  | some p => (rid, pid, s.sendStores w (s.ctx w).part p ((s.pubs.filter (fun x => x.id = p)).flatMap Pub.stores))

/-- No publication of an earlier FENCE.rel of the context is under way: writes with numbers from `born` wait for it (R112). -/
def State.fencesDone (s : State) (w : Who) (born : Nat) : Bool :=
  !s.pubs.any (fun p => p.who = w && p.fence && p.id < born)

/-- FENCE (R321): a release, an acquire or both. -/
def execFence (gd : Guard) (c : BitVec 3) (o : BitVec 2) (s : State) : Out :=
  let sc := Scope.ofCode c.toNat
  let acq (s : State) : State := if o.getLsbD 0 then s.acquire s.who sc (s.fenceMatches s.who) else s
  s.guarded gd fun s =>
    if o.getLsbD 1 then
      s.roomFor .gs 1 fun s =>
        let (_, pid, s) := s.release s.who sc true
        .next (acq (if pid.isSome then s.modCur (fun c => c.bump .gs 1) else s))
    else .next (acq s)

/-- The line of an address in which the accesses of a context keep their order (R101): 256 bytes of S, 64 bytes of other memory. -/
def lineOf (p : Place) (a : Nat) : Place × Nat := (p, a / (if p.isS then 256 else 64))

/-- The lines that an operation reaches at homes of this package; traffic to peers keeps the order of its flow instead (R137). -/
def OpKind.lines (k : OpKind) : List (Place × Nat) :=
  (k.places.filter (fun x => !x.1.isPeer)).map (fun x => lineOf x.1 x.2)

/-- An operation reads a counter: a CREAD of it, or a load of bytes of its word. -/
def OpKind.readsCtr (k : OpKind) (key : CtrKey) : Bool :=
  match k with
  | .cread key' _ => key' = key
  | .load us _ _ => us.any (fun u => match key with
    | .sword c a => u.place = .s c && overlaps u.addr u.len a 8
    | .memory p a => u.place = p && overlaps u.addr u.len a 8
    | .cistern _ _ => false)
  | _ => false

/-- A read of the advance's counter in the advance's own bundle is still to be made: it returns the value from before (R24, R291). -/
def State.readBefore (s : State) (a : Advance) : Bool :=
  a.who.any (fun w => (s.ctx w).ops.any (fun o => o.result.isNone && a.first ≤ o.born && o.born < a.rel && o.kind.readsCtr a.key))

/-- A store of a publication may be performed: no access of the context to its line that was issued before it is still to arrive, no
FENCE.rel before it is under way (R101, R112), and its turn on its flow has come (R136, R137). -/
def State.storeReady (s : State) (p : Pub) (t : Store) : Bool :=
  let line := lineOf t.place t.addr
  s.fencesDone p.who p.id && s.flowReady (.store p.id t) &&
  !(s.pubs.any (fun q => q.who = p.who && q.stores.any (fun x => x.id < t.id && lineOf x.place x.addr = line))) &&
  !((s.ctx p.who).ops.any (fun o => o.result.isNone && o.born < t.id && o.kind.lines.contains line))

/-- Bytes of a context cross to the host with an access made there; what goes to another die or package crosses as it leaves its flow. -/
def State.carryHost (s : State) (w : Who) (p : Place) (a : Nat) (bytes : List Byte) : State :=
  if p = .host then s.carry (s.ctx w).part (dieOf w.core) p a true bytes else s

/-- Bytes of a home come back to a context over what lies between (R222, R227). -/
def State.reply' (s : State) (w : Who) (p : Place) (a : Nat) (bytes : List Byte) : State :=
  (s.carryHost w p a []).carry (s.ctx w).part (dieOf w.core) p a false bytes

/-- Perform a store of a publication and take it off. -/
def State.performPub (s : State) (p : Pub) (t : Store) : State :=
  let (s, ok) := (s.carryHost p.who t.place t.addr t.bytes).performStore p.who t p.scope
  let step (q : Pub) : Pub :=
    { q with
      stores := q.stores.filter (fun x => x != t)
      writes := if ok then q.writes else q.writes.filter (fun i => i != t.id) }
  { s.leaveFlows (.store p.id t) with pubs := s.pubs.map (fun q => if q.id = p.id then step q else q) }

/-- STORE_PERFORMED: store i of a publication is performed at its home, and its writer sees it as published (R113, R114).
Stores to peers are performed when their flow delivers them (R137). -/
def execStorePerformed (pub i : Nat) (s : State) : Out :=
  match s.pubs.find? (fun p => p.id = pub) with
  | none => .next s
  | some p =>
    match p.stores[i]? with
    | none => .next s
    | some t =>
      match t.place with
      | .peer _ => .next s
      | _ => if s.storeReady p t then .next (s.performPub p t) else .next s

/-- PUBLICATION_COMPLETE: every store of the publication and of the earlier ones of its context is performed; its writes
count as published at its scope, and a FENCE.rel's GS falls (R112). -/
def execPublicationComplete (pub : Nat) (s : State) : Out :=
  match s.pubs.find? (fun p => p.id = pub) with
  | none => .next s
  | some p =>
    if s.pubs.any (fun q => q.who = p.who && q.id ≤ p.id && !q.stores.isEmpty) then .next s
    else
      let s := s.publishWrites p.writes p.scope (.core p.who.core)
      let s := { s with pubs := s.pubs.filter (fun q => q.id != p.id) }
      .next (if p.fence then s.modCtx p.who (fun c => c.drop .gs 1) else s)

/-! ### Returns (R23, R101, R103, R115) -/

/-- The accesses of one context to one line arrive in the order in which they were issued (R101); traffic to peers keeps the
order of its flow instead (R137). -/
def Ctx.opReady (c : Ctx) (i : Nat) : Bool :=
  match c.ops[i]? with
  | none => false
  | some o =>
    !(c.ops.take i).any (fun x => x.result.isNone && x.kind.lines.any (fun l => o.kind.lines.contains l))

/-- The stores of a context whose publication began before an operation issued have arrived on its lines (R101). A store that was private
then is no access to the line yet (R111). -/
def State.storesArrived (s : State) (w : Who) (o : VlOp) : Bool :=
  !s.pubs.any (fun p => p.who = w && p.id < o.born && p.stores.any (fun t => o.kind.lines.contains (lineOf t.place t.addr)))

/-- Land the values of an operation, unless a later write has landed (R23); one of the trapped code stands against the handler's later
writes (R201). -/
def Ctx.landOp (c : Ctx) (o : VlOp) (sens : Sens) (regs : List (Reg × VWord × Tag)) : Ctx :=
  regs.foldl (fun (c : Ctx) (r : Reg × VWord × Tag) =>
    if o.dropped.contains r.1 then c
    else
      let c := (c.writeReg r.1 r.2.1 r.2.2 sens).discardOlder r.1 o.era o.id
      if c.era < o.era then { c with landed := r.1 :: c.landed } else c) c

/-- An operation leaves its context: its values land, what it read is noted, an acquire takes effect, and GL falls. -/
def State.retireOp (s : State) (w : Who) (o : VlOp) (sens : Sens) (r : OpResult) : State :=
  let s := s.modCtx w (fun c =>
    let c := { c with ops := c.ops.filter (fun x => x.id != o.id), seen := r.seen ++ c.seen }
    match r.fault with
    | some _ => c
    | none => c.landOp o sens r.regs)
  let s := match r.fault with
    | some f => s.report w f.cause f.val
    | none => if o.ord.getLsbD 0 then s.acquire w o.scope r.rels else s
  s.modCtx w (fun c => c.drop .gl 1)

/-- Read one unit of a load: its bytes with the writes they come from. -/
def State.readUnit (s : State) (w : Who) (o : VlOp) (u : LoadUnit) : List (Byte × Nat) × State :=
  let (bs, s) := s.readHome w o.vis o.born u.place u.addr u.len
  let earlier' (a : Nat) : Option (Byte × Nat) :=
    ((s.ctx w).phaseBytes.find? (fun b => b.phase = o.phase && !b.own && b.place = u.place && b.addr = a)).map
      (fun b => (b.val, b.id))
  (bs.zipIdx.map (fun (x : (Byte × Nat) × Nat) =>
    (u.fixed.getD x.2 none).getD ((earlier' (u.addr + x.2)).getD x.1)), s)

/-- A byte has become visible anew since a load issued, in the same phase: an NC copy completed (R166). -/
def State.refreshed (s : State) (w : Who) (o : VlOp) (p : Place) (a : Nat) : Bool :=
  s.hist.any (fun x => x.covers p a && (s.ctx w).vis.contains x.id && !o.vis.contains x.id)

/-- Note the bytes of a unit as read in the phase of their load, but for those that an NC copy has since made visible. -/
def State.noteUnit (s : State) (w : Who) (o : VlOp) (u : LoadUnit) (bs : List (Byte × Nat)) : State :=
  let new := (bs.zipIdx.filter (fun (x : (Byte × Nat) × Nat) =>
      (u.fixed.getD x.2 none).isNone && !s.refreshed w o u.place (u.addr + x.2))).map
    (fun (x : (Byte × Nat) × Nat) =>
      ({ phase := o.phase, own := false, place := u.place, addr := u.addr + x.2, id := x.1.2, val := x.1.1 } : PhaseByte))
  s.modCtx w (fun c => { c with
    phaseBytes := new ++ c.phaseBytes
    seen := ((bs.zipIdx.filter (fun (x : (Byte × Nat) × Nat) => x.1.2 != 0)).map
      (fun (x : (Byte × Nat) × Nat) => (u.place, u.addr + x.2, x.1.2))) ++ c.seen })

/-- Read every unit of a load: the result by offsets, as a number. -/
def State.readUnits (s : State) (w : Who) (o : VlOp) : List LoadUnit → Nat → Nat × State
  | [], acc => (acc, s)
  | u :: us, acc =>
    let (bs, s) := s.readUnit w o u
    let s := ((s.noteUnit w o u bs).reply' w u.place u.addr (bs.map Prod.fst)).perfWho w 16 (if u.place = .hbm then 1 else 0)
    s.readUnits w o us (acc + leNat (bs.map Prod.fst) * 2 ^ (8 * u.offset))

/-- The sensitivity of what a load has read: the higher of that of its line or page as it issued, with the context's own stores, and that of
the S line as it stands at its bank now. R57 gives no moment at which a load takes its line's SENS (DESIGN CHOICE, log 62). -/
def State.unitSens (s : State) (o : VlOp) (us : List LoadUnit) : Sens :=
  us.foldl (fun (acc : Sens) u => match u.place with
    | .s c => acc.max ((s.cluster c).stags.get LineTag.reset (u.addr / 256)).sens
    | _ => acc) o.sens

/-- The first unit of a global load that an integrity failure meets (R103): its virtual address. An S line has been read at its bank in
the issue cycle, and a failure of it trapped there (R96, R197). -/
def State.unitFails (s : State) (us : List LoadUnit) : Option Word :=
  (us.find? (fun u => !u.place.isS && !s.rangeOk u.place u.addr u.len)).map (fun u => BitVec.ofNat 64 u.va)

/-- The flows that an operation travels on to other packages are open (R227, R246). -/
def State.linksOpen (s : State) (w : Who) (o : VlOp) : Bool :=
  (s.opDests w o.kind).all (fun d => 1024 ≤ d || s.flowOpen (s.ctx w).part d)

/-- What an atomic that was performed sends back: its home and the old value. -/
def OpKind.answer (k : OpKind) (r : OpResult) : List (Place × Nat × List Byte) :=
  let old (wide : Bool) : List Byte := leBytes (if wide then 8 else 4) ((r.regs.head?.map (fun x => x.2.1.toNat)).getD 0)
  match k with
  | .amo p a wide _ _ _ => [(p, a, old wide)]
  | .cas p a wide _ _ _ _ => [(p, a, old wide)]
  | .casl p a wide _ _ _ _ _ _ _ _ => [(p, a, old wide)]
  | _ => []

/-- GL_RETURN: the i-th operation outstanding returns (R23). A load reads at its homes now; an atomic, a PROBE or an element
load of X or Y returns what it has read; CREAD reads its counter (R119). -/
def execGlReturn (core : Nat) (ctx : BitVec 2) (i : Nat) (s : State) : Out :=
  let w : Who := ⟨core, ctx.toNat⟩
  let c := s.ctx w
  match c.ops[i]? with
  | none => .next s
  | some o =>
    if !c.opReady i || !s.storesArrived w o || !s.flowReady (o.item w) || !s.linksOpen w o || o.wait != 0 then .next s
    else
      let s := if o.kind.item w o.id = .red w o.id then s else s.leaveFlows (o.item w)
      match o.result, o.kind with
      | some _, .red .. => .next s
      | some r, k => .next (((k.answer r).foldl (fun (u : State) x => u.reply' w x.1 x.2.1 x.2.2) s).retireOp w o o.sens r)
      | none, .load us d fmt =>
        (match s.unitFails us with
        | some va => .next (s.retireOp w o .pub ⟨[], some ⟨0x0F, va⟩, [], []⟩)
        | none =>
          let sens := s.unitSens o us
          let (v, s) := s.readUnits w o us 0
          .next (s.retireOp w o sens ⟨[(d, BitVec.ofNat 2048 v, fmt)], none, [], []⟩))
      | none, .cread key d =>
        let bad := match key with
          | .memory p a => !s.rangeOk p a 8
          | _ => false
        if bad then .next (s.retireOp w o .pub ⟨[], some ⟨0x0F, BitVec.ofNat 64 (o.va % 2 ^ 56)⟩, [], []⟩) else
        let v := s.ctrValue key
        let rels := s.ctrRels' key
        let s := (s.modCtx w (fun c => { c with seenRels := unionNat rels c.seenRels })).carryCtr c.part (dieOf core) key false (leBytes 8 v)
        .next (s.retireOp w o .pub ⟨[(d, BitVec.ofNat 2048 v, 0)], none, rels, []⟩)
      | none, _ => .next s

end Sys2Proof.Machine
end

