-- ==== Sys2Proof/Machine/Atomics.lean ====
section
/-! DEFINITION. Atomics, reductions, CASL, the counter instructions and PROBE with their events (R104 to R106, R117 to R131, R277,
R296 to R299, R302 to R304, R339 to R343). -/

namespace Sys2Proof.Machine

/-! ### Where an atomic goes (R125, R277) -/

/-- The operand checks of R277 and R125, then window and alignment: a global address, or an S address where allowed. -/
def State.atomAt (s : State) (ad : Word) (n : Nat) (sOk : Bool) : Except (BitVec 8 × Word) SlotAt :=
  let va := bitsOf ad.toNat 0 56
  let sp := bitsOf ad.toNat 61 3
  let val := BitVec.ofNat 64 va
  if bitsOf ad.toNat 56 5 != 0 || 6 ≤ sp then .error (0x08, ad)
  else if sp = 4 then (if va % n != 0 then .error (0x07, val) else .ok (.glob va))
  else if sp = 3 && sOk then
    if (s.window s.issue.core s.cur.part).2 < va + n then .error (0x06, val)
    else if va % n != 0 then .error (0x07, val) else .ok (.sp va)
  else .error (0x06, val)

/-- Bytes of an atomic's word. -/
def atomBytes (z : Bool) : Nat := if z then 4 else 8

/-- An atomic whose translation misses blocks before it raises anything (R31). -/
def State.awaitAtomic (s : State) (ad : Word) (f : State → Out) : Out :=
  if bitsOf ad.toNat 56 5 = 0 && bitsOf ad.toNat 61 3 = 4 then
    match s.lookup (.slot s.who) (dieOf s.issue.core) s.cur.part (bitsOf ad.toNat 0 56) true with
    | .miss m => s.blockMiss [m]
    | _ => f s
  else f s

/-- Check an atomic and reach its home: place, home address, program address and the sensitivity of its page. The context's earlier private
stores to its bytes are sent there before it (R126). -/
def State.reachAtomic (s : State) (ad : Word) (n : Nat) (k : Access) (sens : Sens)
    (f : Place → Nat → Nat → Sens → State → Out) : Out :=
  match s.atomAt ad n (k != .casl) with
  | .error (c, v) => s.awaitAtomic ad fun s => s.raise c v
  | .ok (.glob va) =>
    (match s.reach s.who s.cur.part k sens va with
    | .block m => s.blockMiss [m]
    | .trap c v => s.raiseMem c v
    | .ok p a _ => f p a va (s.pageSens p a) (s.releaseOwn s.who s.serial p a n))
  | .ok (.sp a) =>
    if k != .red && !s.rangeOk (.s s.myCluster) (s.phys a) n then s.raise 0x0F (BitVec.ofNat 64 a)
    else f (.s s.myCluster) (s.phys a) a .pub ((s.perfWho s.who 18 1).releaseOwn s.who s.serial (.s s.myCluster) (s.phys a) n)
  | .ok (.buf _ a) => s.raise 0x06 (BitVec.ofNat 64 a)

/-- The release of an atomic with rel or ar (R112). -/
def State.atomRelease (s : State) (o : BitVec 2) (c : BitVec 3) : Option Nat × Option Nat × State :=
  if o.getLsbD 1 then
    let (rid, pid, s) := s.release s.who (Scope.ofCode c.toNat) false
    (some rid, pid, s)
  else (none, none, s)

/-- Put an atomic in flight with its release. -/
def State.issueAtomic (s : State) (k : OpKind) (va : Nat) (sens : Sens) (o : BitVec 2) (c : BitVec 3) (cls : Cls) : Out :=
  let (rid, pid, s) := s.atomRelease o c
  .next ((s.issueOp k va sens o (Scope.ofCode c.toNat) pid rid none 0).modCur (fun x => x.bump cls 1))

/-- AMO (R296 to R298). -/
def execAmo (gd : Guard) (r a : BitVec 5) (f : BitVec 4) (c : BitVec 3) (o : BitVec 2) (z : Bool) (s : State) : Out :=
  s.guarded gd fun s => s.roomFor .gl 1 fun s =>
    s.reachAtomic (s.gw a) (atomBytes z) .atomic (s.gsens r) fun p ad va sens s =>
      s.issueAtomic (.amo p ad (!z) f (s.gw r) (.g r)) va (sens.max (s.gsens r)) o c .gl

/-- CAS (R296 to R298): the pair gd, gd+1. -/
def execCas (gd : Guard) (r a : BitVec 5) (q : BitVec 3) (c : BitVec 3) (o : BitVec 2) (z : Bool) (s : State) : Out :=
  s.guarded gd fun s => s.roomFor .gl 1 fun s =>
    let data := (s.gsens r).max (s.gsens (r + 1))
    s.reachAtomic (s.gw a) (atomBytes z) .atomic data fun p ad va sens s =>
      s.issueAtomic (.cas p ad (!z) (s.gw r) (s.gw (r + 1)) r q) va (sens.max data) o c .gl

/-- CASL (R127 to R130, R299): the group gd to gd+3. -/
def execCasl (gd : Guard) (r a : BitVec 5) (q : BitVec 3) (k : Bool) (c : BitVec 3) (o : BitVec 2) (z : Bool) (s : State) :
    Out :=
  s.guarded gd fun s => s.roomFor .gl 1 fun s =>
    let data := (s.gsens r).max (s.gsens (r + 1))
    let handle := s.gw (r + 2)
    let ad := s.gw a
    s.awaitAtomic ad fun s =>
    if bitsOf ad.toNat 56 5 != 0 || 6 ≤ bitsOf ad.toNat 61 3 then s.raise 0x08 ad
    else if bitsOf handle.toNat 21 11 != 0 then s.raise 0x08 handle
    else if s.gsens (r + 2) != .pub then s.raise 0x05 ((r + 2).setWidth 64)
    else if s.gsens (r + 3) = .seal then s.raise 0x05 ((r + 3).setWidth 64)
    else
      s.reachAtomic ad (atomBytes z) .casl data fun p ad va sens s =>
        s.issueAtomic (.casl p ad (!z) (s.gw r) (s.gw (r + 1)) handle (s.gw (r + 3)) k r q s.cur.kslot) va (sens.max data)
          o c .gl

/-- RED (R342, R343): to another die or a peer it travels on the context's flow (R124, R136). -/
def execRed (gd : Guard) (r a : BitVec 5) (f : BitVec 4) (c : BitVec 3) (o : BitVec 2) (z : Bool) (s : State) : Out :=
  s.guarded gd fun s => s.roomFor .gs 1 fun s =>
    s.reachAtomic (s.gw a) (atomBytes z) .red (s.gsens r) fun p ad va _ s =>
      let (rid, pid, s) := s.atomRelease o c
      .next ((s.issueOp (.red p ad (!z) f (s.gw r)) va (s.gsens r) o (Scope.ofCode c.toNat) pid rid none 0).modCur
        (fun x => x.bump .gs 1))

/-! ### At the home (R121 to R126) -/

/-- The function of R122 on a word. -/
def amoFn (fn : BitVec 4) (wide : Bool) (m v : Nat) : Nat :=
  let w := if wide then 64 else 32
  let sg (x : Nat) : Int := if x < 2 ^ (w - 1) then x else (x : Int) - (2 ^ w : Nat)
  match fn.toNat with
  | 0 => (m + v) % 2 ^ w
  | 1 => if sg m ≤ sg v then m else v
  | 2 => if sg m ≤ sg v then v else m
  | 3 => if m ≤ v then m else v
  | 4 => if m ≤ v then v else m
  | 5 => m &&& v
  | 6 => m ||| v
  | 7 => m ^^^ v
  | 9 => (f32Fmt.add 0 m v).1
  | 10 => (bf16Fmt.add 0 (m % 65536) (v % 65536)).1 + 65536 * (bf16Fmt.add 0 (m / 65536) (v / 65536)).1
  | _ => v

/-- R126: the context's stores to an atomic's bytes that are performed and still belong to a publication under way count as published at the
location's widest scope. -/
def State.widenOwn (s : State) (w : Who) (born : Nat) (p : Place) (a n : Nat) : State :=
  let mine := (s.hist.filter (fun x => x.owner = some w && x.id < born && x.place = p && overlaps x.addr x.bytes.length a n)).map Write.id
  s.publishWrites (((s.pubs.filter (fun q => q.who = w)).flatMap Pub.writes).filter (fun i => mine.contains i)) .fabric (.core w.core)

/-- What an atomic finds at its home: the old value, the sensitivity of its line, the releases its read follows and the
writes it read. -/
structure AtomRead where
  old : Nat
  sens : Sens
  rels : List Nat
  seen : List (Place × Nat × Nat)

/-- The newest writes at the bytes of a word. -/
def State.newest (s : State) (p : Place) (a n : Nat) : List (Place × Nat × Nat) :=
  (List.range n).filterMap (fun i => (s.hist.find? (fun w => w.covers p (a + i))).map (fun w => (p, a + i, w.id)))

/-- One indivisible read, modify and write at a home (R121): `f` gives the new value, or none to write nothing. None where
the line has failed (R103). -/
def State.rmw (s : State) (w : Who) (o : VlOp) (p : Place) (a n : Nat) (f : Nat → Option Nat) : State × Option AtomRead :=
  let s := s.widenOwn w o.born p a n
  if !s.rangeOk p a n then (s, none)
  else
    let r : AtomRead :=
      { old := leNat (s.homeBytes p a n), rels := s.ownBefore p a n, seen := s.newest p a n
        sens := match p with
          | .s cl => ((s.cluster cl).stags.get LineTag.reset (a / 256)).sens
          | _ => .pub }
    let s := if p = .hbm then s.perfWho w 16 1 else s
    match f r.old with
    | none => (s, some r)
    | some v =>
      let (s, ok) := s.performLine ⟨o.born, p, a, leBytes n v, [], p.widest, .core w.core, some w⟩
      if !ok then (s, none)
      else
        let s := match p with
          | .s cl => (s.tagS cl a n (fun whole l => l.stored whole 0 o.sens)).forgetAdvances p a n
          | _ => s
        (match o.rel with
        | some rid => s.setOwn rid o.born
        | none => s, some r)

/-- The context's stores to the bytes of an atomic, from before it, have been performed (R126). -/
def State.bytesArrived (s : State) (w : Who) (o : VlOp) : Bool :=
  match o.kind with
  | .amo p a wide _ _ _ => s.ownPerformed w o.born p a (atomBytes (!wide))
  | .cas p a wide _ _ _ _ => s.ownPerformed w o.born p a (atomBytes (!wide))
  | .casl p a wide _ _ _ _ _ _ _ _ => s.ownPerformed w o.born p a (atomBytes (!wide))
  | .red p a wide _ _ => s.ownPerformed w o.born p a (atomBytes (!wide))
  | _ => true

/-- The outstanding operation may be performed at its home now: in its context's order on the line and on its flow, after the published
stores before it on the line, its release complete, and no FENCE.rel before it under way (R101, R112, R126, R136). -/
def State.homeReady (s : State) (w : Who) (i : Nat) (o : VlOp) : Bool :=
  (s.ctx w).opReady i && s.storesArrived w o && s.bytesArrived w o && s.flowReady (o.item w) && o.result.isNone && s.fencesDone w o.born &&
  !s.pubs.any (fun p => o.pub = some p.id)

/-- An operation has been performed: it has left its flow, and what it sends back is recorded. -/
def State.setResult (s : State) (w : Who) (o : VlOp) (sens : Sens) (r : OpResult) : State :=
  (s.leaveFlows (o.item w)).modCtx w (fun c => { c with ops := c.ops.map (fun x => if x.id = o.id then { x with result := some r, sens := sens } else x) })

/-- The result of an atomic whose line has failed (R103). -/
def OpResult.failed (va : Nat) : OpResult := ⟨[], some ⟨0x0F, BitVec.ofNat 64 va⟩, [], []⟩

/-- A word's value in a register. -/
def gOf (v : Nat) : VWord := BitVec.ofNat 2048 v

/-- ATOMIC_PERFORMED: the i-th outstanding operation, an AMO or CAS, is performed at its home (R121, R297). -/
def execAtomicPerformed (core : Nat) (ctx : BitVec 2) (i : Nat) (s : State) : Out :=
  let w : Who := ⟨core, ctx.toNat⟩
  match (s.ctx w).ops[i]? with
  | none => .next s
  | some o =>
    if !s.homeReady w i o then .next s
    else
      match o.kind with
      | .amo p a wide fn v d =>
        let n := atomBytes (!wide)
        (match s.rmw w o p a n (fun m => some (amoFn fn wide m (v.toNat % 2 ^ (8 * n)))) with
        | (s, none) => .next (s.setResult w o .pub (.failed o.va))
        | (s, some r) => .next ((s.perfWho w 21 1).setResult w o (o.sens.max r.sens) ⟨[(d, gOf r.old, 0)], none, r.rels, r.seen⟩))
      | .cas p a wide e v d q =>
        let n := atomBytes (!wide)
        let lim := 2 ^ (8 * n)
        (match s.rmw w o p a n (fun m => if m = e.toNat % lim then some (v.toNat % lim) else none) with
        | (s, none) => .next (s.setResult w o .pub (.failed o.va))
        | (s, some r) =>
          let ok := decide (r.old = e.toNat % lim)
          .next ((s.perfWho w 21 1).setResult w o (o.sens.max r.sens)
            ⟨[(.g d, gOf r.old, 0), (.p q, gOf ok.toNat, 0)], none, r.rels, r.seen⟩))
      | _ => .next s

/-- A RED has been performed: it is gone, and GS falls (R342). -/
def State.redDone (s : State) (w : Who) (o : VlOp) : State :=
  (s.leaveFlows (o.item w)).modCtx w (fun c => ({ c with ops := c.ops.filter (fun x => x.id != o.id) }).drop .gs 1)

/-- RED_PERFORMED: the i-th outstanding operation, a RED of this package, is performed at its home; GS falls (R124, R342). One
that meets a failed line is dropped and recorded (R103). -/
def execRedPerformed (core : Nat) (ctx : BitVec 2) (i : Nat) (s : State) : Out :=
  let w : Who := ⟨core, ctx.toNat⟩
  match (s.ctx w).ops[i]? with
  | none => .next s
  | some o =>
    match o.kind with
    | .red (.peer _) .. => .next s
    | .red p a wide fn v =>
      if !s.homeReady w i o then .next s
      else
        let n := atomBytes (!wide)
        let (s, r) := s.rmw w o p a n (fun m => some (amoFn fn wide m (v.toNat % 2 ^ (8 * n))))
        let s := if r.isSome then s else s.memoryFault w a
        .next (s.redDone w o)
    | _ => .next s

/-! ### CASL and the Wellhead (R127 to R131) -/

/-- A free slot for a partition at a slice: its share of the Wellhead, then its ring; none where both are full (R131). Launches take
slots, and so do the CASLs that have reserved one (R129). -/
def State.reserveLaunch (s : State) (part slice : Nat) : Option Bool :=
  let x := s.slice slice
  let mine := (x.well.filter (fun e => e.launch.part = part)).map WellEntry.onChip ++
    (x.reserved.filter (fun r => (s.ctx r.1).part = part)).map (fun r => r.2.2)
  let on := (mine.filter id).length
  if on < (s.part part).wellShare then some true
  else if mine.length - on < 2 ^ (s.part part).ringK then some false else none

/-- The slot that a CASL has reserved at a slice. -/
def State.reservedBy (s : State) (w : Who) (o : VlOp) (slice : Nat) : Option Bool :=
  ((s.slice slice).reserved.find? (fun r => r.1 = w && r.2.1 = o.id)).map (fun r => r.2.2)

/-- A CASL gives its reservation up, or a launch takes it over. -/
def State.unreserve (s : State) (w : Who) (o : VlOp) (slice : Nat) : State :=
  s.modSlice slice (fun x => { x with reserved := x.reserved.filter (fun r => !(r.1 = w && r.2.1 = o.id)) })

/-- A CASL's RETRY (R129): the memory is untouched, its stores are published all the same. -/
def State.caslRetry (s : State) (w : Who) (o : VlOp) (p : Place) (a : Nat) (wide : Bool) (e : Word) (d : BitVec 5) (q : BitVec 3) :
    State :=
  ((s.widenOwn w o.born p a (atomBytes (!wide))).perfWho w 21 1 |>.perfWho w 22 1).setResult w o o.sens
    ⟨[(.g d, gOf e.toNat, 0), (.p q, gOf 0, 0)], none, [], []⟩

/-- A CASL reaches its home slice, where the first to arrive reserves the last free slot and the next one's outcome is RETRY (R129, R407).
Its comparison follows (CASL_PERFORMED). -/
def State.caslReserve (s : State) (w : Who) (i : Nat) : State :=
  match (s.ctx w).ops[i]? with
  | none => s
  | some o =>
    match o.kind with
    | .casl p a wide e _ _ _ _ d q _ =>
      let slice := s.sliceOf a
      if !s.homeReady w i o || (s.reservedBy w o slice).isSome then s
      else
        match s.reserveLaunch (s.ctx w).part slice with
        | none => s.caslRetry w o p a wide e d q
        | some onChip => s.modSlice slice (fun x => { x with reserved := x.reserved ++ [(w, o.id, onChip)] })
    | _ => s

/-- CASL_PERFORMED: the i-th outstanding operation, a CASL, is performed at its home slice, in the slot it has reserved; its release is
complete (R129, R130). -/
def execCaslPerformed (core : Nat) (ctx : BitVec 2) (i : Nat) (s : State) : Out :=
  let w : Who := ⟨core, ctx.toNat⟩
  let c := s.ctx w
  match c.ops[i]? with
  | none => .next s
  | some o =>
    match o.kind with
    | .casl p a wide e v handle arg onZero d q tenant =>
      if !s.homeReady w i o then .next s
      else
        let slice := s.sliceOf a
        (match (s.reservedBy w o slice).orElse (fun _ => s.reserveLaunch c.part slice) with
        | none => .next (s.caslRetry w o p a wide e d q)
        | some onChip =>
          let s := s.unreserve w o slice
          let n := atomBytes (!wide)
          let lim := 2 ^ (8 * n)
          match s.rmw w o p a n (fun m => if m = e.toNat % lim then some (v.toNat % lim) else none) with
          | (s, none) => .next (s.setResult w o .pub (.failed o.va))
          | (s, some r) =>
            let ok := decide (r.old = e.toNat % lim)
            let s := (s.perfWho w 21 1).setResult w o (o.sens.max r.sens)
              ⟨[(.g d, gOf r.old, 0), (.p q, gOf ok.toNat, 0)], none, r.rels, r.seen⟩
            if ok && (!onZero || v.toNat % lim = 0) then
              let (id, s) := s.fresh
              let l : Launch :=
                { id, src := .continuation slice o.va, part := c.part, handle, arg0 := BitVec.ofNat 64 r.old, arg1 := arg, tenant
                  age := (s.part c.part).age.toNat, rels := o.rel.toList, pub := none, chosen := none, held := none, dest := none, picked := 0 }
              .next ((s.perfWho w 23 1).modSlice slice (fun x => { x with well := x.well ++ [⟨l, onChip⟩] }))
            else .next s)
    | _ => .next s

/-! ### Counters (R117 to R120, R302 to R304) -/

/-- The handle checks of R118 for the issuing context. -/
def State.withHandle (s : State) (write : Bool) (h : Word) (f : CtrKey → State → Out) : Out :=
  match s.checkHandle s.who s.cur.part s.cur.hashKey write h with
  | .trap c v => s.raise c v
  | .block m => s.blockMiss [m]
  | .ok key => f key s

/-- CADV (R119, R303): always a release; GS until its home performs it. -/
def execCadv (gd : Guard) (r a : BitVec 5) (c : BitVec 3) (_o : BitVec 2) (s : State) : Out :=
  s.guarded gd fun s => s.roomFor .gs 1 fun s => s.withHandle true (s.gw a) fun key s =>
    if s.gsens r != .pub then s.raise 0x05 (r.setWidth 64)
    else
      let h := s.gw a
      let amt := (s.gw r).toNat
      let (rid, pid, s) := s.release s.who (Scope.ofCode c.toNat) false
      let s := { s with advances := s.advances ++ ([⟨key, h, amt, rid, pid, some s.who, s.issue.first⟩] : List Advance) }
      let s := match s.ctrDest s.who key with
        | some d => s.enqueueFlow s.who s.cur.part d (.advance rid)
        | none => s
      .next (s.modCur (fun x => x.bump .gs 1))

/-- The S word of a counter reads (R103); a counter of another kind has none. -/
def State.wordOk (s : State) (k : CtrKey) : Bool := match k with
  | .sword c a => s.rangeOk (.s c) a 8
  | _ => true

/-- CREAD (R119, R303); an S word whose line has failed traps on the bundle (R103). -/
def execCread (gd : Guard) (r a : BitVec 5) (c : BitVec 3) (o : BitVec 2) (s : State) : Out :=
  s.guarded gd fun s => s.roomFor .gl 1 fun s => s.withHandle false (s.gw a) fun key s =>
    if !s.wordOk key then s.raise 0x0F (BitVec.ofNat 64 (bitsOf (s.gw a).toNat 0 22))
    else
    .next (((s.countCtr s.who key).issueOp (.cread key (.g r)) (s.gw a).toNat .pub o (Scope.ofCode c.toNat) none none none 0).modCur
      (fun x => x.bump .gl 1))

/-- CWAIT (R119, R303): it blocks while the counter is below the target, unless a wake has satisfied it (R120), and raises what it raises
after that (R31). It matches the advances in the value it looks at; that this value is no landed read, which a later FENCE.acq of a wider
scope could match, is DESIGN CHOICE, log 89. -/
def execCwait (gd : Guard) (r a : BitVec 5) (c : BitVec 3) (_o : BitVec 2) (s : State) : Out :=
  s.guarded gd fun s => s.withHandle false (s.gw a) fun key s =>
    let target := (s.gw r).toNat
    if s.ctrValue key < target && s.cur.woken != some (s.gw a, target) then s.blockOn (.cwait key (s.gw a) target)
    else if s.gsens r != .pub then s.raise 0x05 (r.setWidth 64)
    else .next (((s.countCtr s.who key).acquire s.who (Scope.ofCode c.toNat) (s.ctrRels' key)).modCur (fun x => { x with woken := none }))

/-- COUNTER_ADVANCE: the i-th advance under way reaches its home, its release complete; a refused one is reported, one whose
line has failed is dropped and recorded (R103, R112, R119). One to another die arrives in the order of its flow (R136). A read of the
counter in the CADV's bundle comes first (R24). -/
def execCounterAdvance (i : Nat) (s : State) : Out :=
  match s.advances[i]? with
  | none => .next s
  | some a =>
    let done (s : State) : State :=
      let s := { s.leaveFlows (.advance a.rel) with advances := removeAt s.advances i }
      match a.who with
      | some w => (s.countCtr w a.key).modCtx w (fun c => c.drop .gs 1)
      | none => s
    let behind := (s.advances.take i).any (fun x => x.who = a.who && x.key = a.key)
    if behind || s.pubs.any (fun p => a.pub = some p.id) || !(a.who.all (fun w => s.fencesDone w a.rel)) ||
        !s.flowReady (.advance a.rel) || s.readBefore a then .next s
    else
      let bad := match a.key with
        | .memory p x => !s.rangeOk p x 8
        | .sword c x => !s.rangeOk (.s c) x 8
        | .cistern _ _ => false
      if bad then
        .next (done (match a.who, a.key with
          | some w, .memory _ x => s.memoryFault w x
          | some w, .sword _ x => s.memoryFault w x
          | _, _ => s))
      else
        match s.ctrAdvance a.key a.amount a.rel with
        | some s => .next (done s)
        | none =>
          .next (done (match a.who with
            | some w => s.report w 0x12 a.handle
            | none => s))

/-! ### PROBE (R104 to R106, R339 to R341) -/

/-- The hash of a block number (R105). -/
def probeHash (blk : Nat) : Nat :=
  bitsOf blk 0 10 ^^^ bitsOf blk 10 10 ^^^ bitsOf blk 20 10 ^^^ bitsOf blk 30 10 ^^^ bitsOf blk 40 8

/-- A table entry as it stands at its bank. -/
def State.tagEntry (s : State) (table slot : Nat) : Nat := leNat (s.homeBytes (.s s.myCluster) (s.phys (table + 8 * slot)) 8)

/-- Write a table entry at its bank (R106): it counts as published at cluster scope. -/
def State.writeTag (s : State) (w : Who) (cl phys v : Nat) : State :=
  let (id, s) := s.fresh
  let s := (s.performLine ⟨id, .s cl, phys, leBytes 8 v, [], .cluster, .core w.core, some w⟩).1
  (s.tagS cl phys 8 (fun whole l => l.stored whole 0 .pub)).forgetAdvances (.s cl) phys 8

/-- The eight entries that a PROBE examines, in order, with their values. -/
def State.probeEntries (s : State) (table blk : Nat) : List (Nat × Nat) :=
  (List.range 8).map (fun i => let k := (probeHash blk + i) % 1024; (k, s.tagEntry table k))

/-- The S lines, one or two, that hold the eight entries of a PROBE (R340). -/
def State.probeLines (s : State) (w : Who) (blk table : Nat) : List (Place × Nat) :=
  ((List.range 8).map (fun i => lineOf (.s (clusterOf w.core))
    (s.sPhys w.core (s.ctx w).part (s.ctx w).hashKey (table + 8 * ((probeHash blk + i) % 1024))))).dedup

/-- What a PROBE must follow is under way: an access of its context to one of its lines, issued before (R101, R106), or the publication of an
earlier FENCE.rel, which precedes its claim (R112; DEDUCED, log 28). -/
def State.probeHeld (s : State) (w : Who) (blk table : Nat) : Bool :=
  let ls := s.probeLines w blk table
  s.pubs.any (fun p => p.who = w && (p.fence || p.stores.any (fun t => ls.contains (lineOf t.place t.addr)))) ||
  (s.ctx w).ops.any (fun o => o.result.isNone && o.kind.lines.any (fun l => ls.contains l))

/-- PROBE's two operations: its slot and predicate, and the further GL of a fill that is pending. -/
def State.probeOps (s : State) (a : BitVec 5) (q : BitVec 3) (table slot : Nat) (hit : Bool) (va : Nat) : State :=
  let ph := s.phys (table + 8 * slot)
  let sens := (s.sTag s.who s.myCluster ph).sens
  let s := (s.issueOp (.probe a q slot hit) va sens 0 .core none none
    (some ⟨[(.g a, BitVec.ofNat 2048 slot, 0), (.p q, BitVec.ofNat 2048 hit.toNat, 0)], none, [], []⟩) 0).modCur
      (fun c => c.bump .gl 1)
  if hit then s
  else (s.issueOp (.fillWait s.myCluster ph slot) va sens 0 .core none none none 0).modCur (fun c => c.bump .gl 1)

/-- The dies and packages that hold the four lines of a fill's block (R98, R136). -/
def State.fillDests (s : State) (f : Fill) : List Nat :=
  ((List.range 4).filterMap (fun i => s.destOf f.who f.place (f.addr + 64 * i))).eraseDups

/-- A fill is queued; its reads travel on the flows of its PROBE's context (R267). -/
def State.startFill (s : State) (f : Fill) : State :=
  (s.fillDests f).foldl (fun (u : State) d => u.enqueueFlow f.who (s.ctx f.who).part d (.fill f.cluster f.table f.born))
    { s with fills := s.fills ++ ([f] : List Fill) }

/-- PROBE (R105, R341): its look-up and claim are made at issue, on the table as it stands at its bank. TRAPVAL is the block address. A
tag line that has failed traps on the bundle, at the address of its first entry there (R103). -/
def execProbe (gd : Guard) (a b c : BitVec 5) (q : BitVec 3) (s : State) : Out :=
  s.guarded gd fun s =>
    let dsc := (s.gw c).toNat
    let va := s.gw b
    let table := bitsOf dsc 0 22
    let data := bitsOf dsc 32 22
    let ext := (s.window s.issue.core s.cur.part).2
    let block := [(va.toNat / 256 * 256, 0, 256)]
    s.roomFor .gl 1 fun s =>
    s.awaitPages (if va.toNat / 2 ^ 56 = 0 then 4 else 0) .load .pub block fun s =>
    if bitsOf dsc 0 13 != 0 || bitsOf dsc 22 10 != 0 || bitsOf dsc 32 8 != 0 || bitsOf dsc 54 10 != 0 then s.raise 0x08 va
    else if ext < table + 8192 || ext < data + 262144 then s.raise 0x06 va
    else if va.toNat / 2 ^ 56 != 0 then s.raise 0x10 va
    else
      match s.reachAll .load .pub block with
      | .inr ms => s.blockMiss ms
      | .inl (.error (cause, _)) => s.raiseMem cause va
      | .inl (.ok ps) =>
        let blk := bitsOf va.toNat 8 48
        let es := s.probeEntries table blk
        match es.find? (fun e => !s.rangeOk (.s s.myCluster) (s.phys (table + 8 * e.1)) 8) with
        | some e => s.raise 0x0F (BitVec.ofNat 64 (table + 8 * e.1))
        | none =>
          let s := s.perfWho s.who 18 (s.probeLines s.who blk table).length
          match es.find? (fun e => bitsOf e.2 63 1 = 1 && bitsOf e.2 0 48 = blk && bitsOf e.2 48 14 = 0) with
          | some e =>
            if bitsOf e.2 62 1 = 0 then .next (s.probeOps a q table e.1 true va.toNat)
            else s.roomFor .gl 2 fun s => .next (s.probeOps a q table e.1 false va.toNat)
          | none =>
            match es.find? (fun e => bitsOf e.2 63 1 = 0), ps with
            | some e, p :: _ =>
              s.roomFor .gl 2 fun s =>
              let ph := s.phys (table + 8 * e.1)
              let s := (s.perfWho s.who 18 1).writeTag s.who s.myCluster ph (3 * 2 ^ 62 + blk)
              let (born, s) := s.fresh
              let s := s.startFill ⟨born, s.who, blk, s.myCluster, ph, e.1, s.phys (data + 256 * e.1),
                s.cur.hashKey, p.place, p.addr, s.pageSens p.place p.addr⟩
              .next (s.probeOps a q table e.1 false va.toNat)
            | _, _ => s.raise 0x14 va

/-- Release the contexts that wait on a fill (R105, R340): the 256 data bytes become visible to each, in a view of those
bytes begun afresh. -/
def State.releaseFill (s : State) (f : Fill) (ids : List Nat) : State :=
  { s with cores := s.cores.map (fun (k : Nat × Core) =>
      (k.1, { k.2 with ctxs := k.2.ctxs.map (fun (c : Ctx) =>
        let waits := c.ops.filter (fun o => match o.kind with
          | .fillWait cl t _ => cl = f.cluster && t = f.table
          | _ => false)
        if waits.isEmpty then c
        else
          ({ c with
            ops := c.ops.filter (fun o => !waits.contains o)
            vis := unionNat ids c.vis
            phaseBytes := c.phaseBytes.filter (fun b =>
              !(b.place = .s f.cluster && f.data ≤ b.addr && b.addr < f.data + 256)) } : Ctx).drop .gl waits.length) })) }

/-- Clear a bit of a table entry as it stands (R105): what an AMO or CAS has changed in it since stays. -/
def State.clearTagBit (s : State) (f : Fill) (bit : Nat) : State :=
  let v := leNat (s.homeBytes (.s f.cluster) f.table 8)
  (s.perfWho f.who 18 1).writeTag f.who f.cluster f.table (v - bitsOf v bit 1 * 2 ^ bit)

/-- PROBE_FILL: the i-th fill copies its block to its slot as the home holds it, publishes it at cluster scope, clears F and
releases its waiters; one that fails clears V and reports to its PROBE's context (R103, R105). Its reads take their turn on their
flows (R137). -/
def execProbeFill (i : Nat) (s : State) : Out :=
  match s.fills[i]? with
  | none => .next s
  | some f =>
    let item : FlowItem := .fill f.cluster f.table f.born
    if !s.flowReady item || !(s.fillDests f).all (fun d => 1024 ≤ d || s.flowOpen (s.ctx f.who).part d) then .next s
    else
    let s := { s.leaveFlows item with fills := removeAt s.fills i }
    if !s.rangeOk f.place f.addr 256 then
      .next (((s.clearTagBit f 63).releaseFill f []).report f.who 0x0F (BitVec.ofNat 64 (f.blk * 256)))
    else
      let bs := s.homeBytes f.place f.addr 256
      let s := (cutLines 257 f.addr bs).foldl (fun (u : State) x => u.reply' f.who f.place x.1 x.2) s
      let (id, s) := s.fresh
      let s := ((if f.place = .hbm then s.perfWho f.who 16 4 else s).perfWho f.who 18 1).performLine ⟨id, .s f.cluster, f.data, bs, [], .cluster, .core f.who.core, none⟩ |>.1
      let s := (s.tagS f.cluster f.data 256 (fun _ l => { l with fmt := 0, sens := l.sens.max f.sens })).forgetAdvances
        (.s f.cluster) f.data 256
      .next ((s.clearTagBit f 62).releaseFill f [id])

end Sys2Proof.Machine
end

