-- ==== Sys2Proof/Machine/Coll.lean ====
section
/-! DEFINITION. Collectives: the parts of an instance, what they read, sum and write, and how they complete (R81, R135, R175 to
R177, R311). -/

namespace Sys2Proof.Machine

/-- The format of an element type code of R163. -/
def collTag (ty : Nat) : Tag :=
  match ty with
  | 0 => 10
  | 1 => 8
  | 2 => 5
  | _ => 6

/-- Bytes of an element. -/
def collSize (ty : Nat) : Nat := tagBits (collTag ty) / 8

/-- A part of a rank of another package. -/
def remotePart (rank op ty n sens : Nat) (bytes : List Byte) : CollPart :=
  { rank, who := none, op, ty, n, bytes, senses := List.replicate bytes.length (Sens.ofCode sens), sent := [], send := 0, recv := 0, completion := none, regs := [], hashKey := 0, own := [],
    vis := [], born := 0, failed := false, done := 0, ids := [] }

/-- A rank of a group that belongs to another package (R175, R248). -/
def State.rankAway (s : State) (part group rank : Nat) : Bool :=
  (((s.part part).collGroups.getD group (0, [])).2[rank]?).any (fun e => e.toNat / 65536 != Config.packageNumber.toNat)

/-- The k-th part of a rank goes to instance k of its group (R177). -/
def State.addPart (s : State) (part group : Nat) (p : CollPart) : State :=
  let key := (part * 4096 + group) * 65536 + p.rank
  let k := s.collIssued.get 0 key
  let size := ((s.part part).collGroups.getD group (0, [])).1
  let s := { s with collIssued := s.collIssued.set key (k + 1) }
  if s.colls.any (fun c => c.part = part && c.group = group && c.index = k) then
    { s with colls := s.colls.map (fun c =>
        if c.part = part && c.group = group && c.index = k then { c with parts := c.parts ++ [p] } else c) }
  else { s with colls := s.colls ++ ([⟨part, group, k, size, [p], false⟩] : List Coll) }

/-! ### The syllable -/

/-- Bytes a rank sends and receives (R176). -/
def sendLen (op ty n size : Nat) : Nat := collSize ty * n * (if op = 1 then size else 1)
def recvLen (op ty n size : Nat) : Nat := collSize ty * n * (if op = 2 then size else 1)

/-- COLL (R175, R311). -/
def execColl (gd : Guard) (a b c : BitVec 5) (t : BitVec 3) (o : BitVec 2) (s : State) : Out :=
  s.guarded gd fun s => s.roomFor .cp 1 fun s => s.awaitHandle (s.gw (a + 3)) fun s =>
    let size := collSize t.toNat
    let w := (s.gw (a + 2)).toNat
    let n := bitsOf w 0 32
    let rank := bitsOf w 32 16
    let group := bitsOf (s.gw b).toNat 0 12
    let groups := (s.part s.cur.part).collGroups
    if bitsOf (s.gw a).toNat 56 8 != 0 || bitsOf (s.gw a).toNat 0 56 % size != 0 then s.raise 0x08 (s.gw a)
    else if bitsOf (s.gw (a + 1)).toNat 56 8 != 0 || bitsOf (s.gw (a + 1)).toNat 0 56 % size != 0 then
      s.raise 0x08 (s.gw (a + 1))
    else if n = 0 || n > 268435456 then s.raise 0x08 (s.gw (a + 2))
    else if bitsOf (s.gw b).toNat 12 52 != 0 || groups.length ≤ group then s.raise 0x08 (s.gw b)
    else if bitsOf w 48 16 != (groups.getD group (0, [])).1 ||
        (groups.getD group (0, [])).2[rank]? != some (Config.packageNumber ++ BitVec.ofNat 16 s.issue.core) then
      s.raise 0x08 (s.gw (a + 2))
    else
      s.withCompletion false (s.gw (a + 3)) c fun comp s =>
        let own := s.ownStores s.who
        let vis := s.copyVis
        let (id, s) := s.fresh
        let p : CollPart :=
          { rank, who := some s.who, op := o.toNat, ty := t.toNat, n, bytes := [], senses := [], sent := [],
            send := bitsOf (s.gw a).toNat 0 56, recv := bitsOf (s.gw (a + 1)).toNat 0 56, completion := comp,
            regs := [s.gw a, s.gw (a + 1), s.gw (a + 2), s.gw (a + 3), s.gw b, s.gw c], hashKey := s.cur.hashKey, own, vis,
            born := id, failed := false, done := 0, ids := [] }
        .next ((s.addPart s.cur.part group p).modCur (fun x => x.bump .cp 1))

/-! ### Reading and writing the buffers (R133, R135) -/

/-- A range of global bytes cut at lines: address and length of each piece. -/
def collPieces : Nat → Nat → Nat → List (Nat × Nat)
  | 0, _, _ => []
  | fuel + 1, a, n =>
    if n = 0 then []
    else
      let k := min n (64 - a % 64)
      (a, k) :: collPieces fuel (a + k) (n - k)

def pieces (a n : Nat) : List (Nat × Nat) := collPieces (n / 64 + 2) a n

/-- The engine context of a part of this package. -/
def State.partCtx (s : State) (w : Who) (p : CollPart) : EngCtx := ⟨w, (s.ctx w).part, p.hashKey, p.own, p.vis, p.born⟩

/-- The participant's stores to a piece of its send buffer may be released: those that it published before, and its operations on the line,
have been performed, and so has every FENCE.rel before the COLL (R101, R112). -/
def State.sendReady (s : State) (e : EngCtx) (p : Place) (a : Nat) : Bool :=
  s.fencesDone e.who e.born &&
  !s.pubs.any (fun q => q.who = e.who && q.stores.any (fun t => t.id < e.born && lineOf t.place t.addr = lineOf p a)) &&
  !(s.ctx e.who).ops.any (fun o => o.result.isNone && o.born < e.born && o.kind.lines.contains (lineOf p a))

/-- What a run of reads of a send buffer comes to: the part with what it has read, and a wait or a failure. -/
structure SendRead where
  s : State
  part : CollPart
  waits : Bool
  failed : Option (Nat × Nat)

/-- Read a line of a send buffer: the participant releases its stores to it (R135), and once they have been performed the engine reads it
(R133). SEAL data that would leave the die fails (R58, R228), and so do sealed weights (R100). -/
def State.readSendLine (s : State) (e : EngCtx) (away : Bool) (a n : Nat) (p : CollPart) : SendRead :=
  let waits (u : State) : SendRead := ⟨u, p, true, none⟩
  let fails (u : State) (c v : Nat) : SendRead := ⟨u, p, false, some (c, v)⟩
  match s.engineReach e false .pub a with
  | .wait u => waits u
  | .fail c v u => fails u c v
  | .ok (pl, ad) u =>
    if u.copyPage e.part pl ad = .sealed then fails u 0x06 a
    else
      let u := u.releaseOwn e.who e.born pl ad n
      if !u.sendReady e pl ad then waits u
      else
        match u.engineLoad e 4 a n with
        | .wait u => waits u
        | .fail c v u => fails u c v
        | .ok (bs, sn) u =>
          if away && sn = .seal then fails u 0x05 a
          else
            let mine := (u.hist.filter (fun w => w.place = pl && overlaps w.addr w.bytes.length ad n && w.seenBy e.who e.vis e.born)).map Write.id
            ⟨u, { p with bytes := p.bytes ++ bs, senses := p.senses ++ List.replicate bs.length sn, sent := unionNat mine p.sent }, false, none⟩

/-- Read on in a send buffer, over the lines that start below a limit of its bytes, each as it is reached (R215). -/
def State.readSend (s : State) (e : EngCtx) (away : Bool) (limit total : Nat) (p : CollPart) : SendRead :=
  (pieces (p.send + p.bytes.length) (total - p.bytes.length)).foldl (fun (r : SendRead) x =>
    if r.waits || r.failed.isSome || limit ≤ r.part.bytes.length then r else r.s.readSendLine e away x.1 x.2 r.part) ⟨s, p, false, none⟩

/-- What a run of receive writes comes to: the writes made, the bytes written, and a wait or a failure. -/
structure RecvWrite where
  s : State
  ids : List Nat
  done : Nat
  waits : Bool
  failed : Option (Nat × Nat)

/-- Write the lines of a receive buffer that start below a limit of its bytes, each with the highest sensitivity of its own bytes. -/
def State.writeRecv (s : State) (e : EngCtx) (fmt : Tag) (a done limit : Nat) (bs : List Byte) (sens : List Sens) : RecvWrite :=
  (cutLines (bs.length + 1) (a + done) (bs.drop done)).foldl (fun (r : RecvWrite) p =>
    if r.waits || r.failed.isSome || limit ≤ r.done then r
    else if r.s.sealedPage e 4 p.1 true then { r with failed := some (0x06, p.1) }
    else
      match r.s.engineStore e 4 p.1 p.2 (((sens.drop r.done).take p.2.length).foldl Sens.max .pub) fmt 0 with
      | .wait u => { r with s := u, waits := true }
      | .fail c v u => { r with s := u, failed := some (c, v) }
      | .ok ids u => { r with s := u, ids := r.ids ++ ids, done := r.done + p.2.length }) ⟨s, [], done, false, none⟩

/-! ### The results (R81, R176) -/

/-- One addition of a reduction: to nearest even in the format, or modulo 2^32; no flag is set (R81). -/
def collAdd (ty x y : Nat) : Nat :=
  match ty with
  | 0 => (f32Fmt.add 0 x y).1
  | 1 => (bf16Fmt.add 0 x y).1
  | _ => (x + y) % 4294967296

/-- Sum of lists of elements in rank order (R81). -/
def collSum (ty : Nat) : List (List Nat) → List Nat
  | [] => []
  | x :: xs => xs.foldl (fun acc y => acc.zipWith (collAdd ty) y) x

/-- Bytes of n elements as numbers. -/
def collElems (size : Nat) (bs : List Byte) : List Nat := splitBits (8 * size) (bs.length / size) (leNat bs)

/-- The receive bytes of a rank from the ranks' sends in rank order (R176). -/
def collResult (op ty n rank : Nat) (sends : List (List Byte)) : List Byte :=
  let size := collSize ty
  let sum := collSum ty (sends.map (collElems size))
  match op with
  | 0 => sum.flatMap (leBytes size)
  | 1 => ((sum.drop (rank * n)).take n).flatMap (leBytes size)
  | 2 => sends.flatten
  | _ => sends.headD []

/-- The sensitivity of each receive byte of a rank: the highest of the send bytes that its element is computed from (R57, R167). -/
def collSens (op ty n rank : Nat) (sends : List (List Sens)) : List Sens :=
  let size := collSize ty
  let all : List Sens := match sends with
    | [] => []
    | x :: xs => xs.foldl (fun acc y => acc.zipWith Sens.max y) x
  match op with
  | 0 => all
  | 1 => (all.drop (rank * n * size)).take (n * size)
  | 2 => sends.flatten
  | _ => sends.headD []

/-! ### Completion (R135, R177) -/

/-- The parts of this package's ranks. -/
def Coll.locals (c : Coll) : List (Who × CollPart) := c.parts.filterMap (fun p => p.who.map (fun w => (w, p)))

/-- The partition of an instance is neither pre-empted nor about to be (R177, R210, R211). -/
def State.collRuns (s : State) (c : Coll) : Bool :=
  (s.part c.part).state != .descheduled && !c.locals.any (fun wp => s.coreFrozen wp.1.core)

/-- An instance takes its turn: every rank has issued its part, no earlier instance of the group is left, no part has stopped,
and its partition runs (R177). -/
def State.collReady (s : State) (c : Coll) : Bool :=
  c.parts.length = c.size && !c.parts.any (fun p => p.failed) && s.collRuns c &&
  !s.colls.any (fun d => d.part = c.part && d.group = c.group && d.index < c.index)

/-- The operation, type or n of the ranks differ (R177). -/
def Coll.differs (c : Coll) : Bool :=
  match c.parts with
  | [] => false
  | p :: ps => ps.any (fun q => q.op != p.op || q.ty != p.ty || q.n != p.n)

/-- Every part of this package's ranks fails with one cause; the spec gives no address (R170, R177). -/
def State.failColl (s : State) (c : Coll) (cause : Nat) : State :=
  let addr := (Config.openValue s.free).toNat
  c.locals.foldl (fun (u : State) wp => u.engineFailure wp.1 .cp 3 cause 0 wp.2.done addr) { s with free := s.free + 1 }

/-- The ring of a group: package and core of each rank (R175). -/
def State.collRing (s : State) (c : Coll) : List (BitVec 32) := ((s.part c.part).collGroups.getD c.group (0, [])).2

/-- The packages of a group besides this one. -/
def State.collPeers (s : State) (c : Coll) : List Nat :=
  ((s.collRing c).map (fun e => e.toNat / 65536)).filter (fun k => k != Config.packageNumber.toNat) |>.eraseDups

/-- A rank of the group runs on another die or package than a core. -/
def State.collAway (s : State) (c : Coll) (core : Nat) : Bool :=
  (s.collRing c).any (fun e => e.toNat / 65536 != Config.packageNumber.toNat || dieOf (e.toNat % 1024) != dieOf core)

/-- Replace the part of a rank of instance i. -/
def State.modPart (s : State) (i rank : Nat) (f : CollPart → CollPart) : State :=
  { s with colls := s.colls.modify i (fun c =>
      { c with parts := c.parts.map (fun (p : CollPart) => if p.rank = rank then f p else p) }) }

/-- Mark the part of a rank as stopped. -/
def State.stopPart (s : State) (i rank : Nat) : State := s.modPart i rank (fun p => { p with failed := true })

/-- The bytes that a part sends: of a broadcast, rank 0's alone are read (R176). -/
def CollPart.sends (p : CollPart) (size : Nat) : Nat := if p.op = 3 && p.rank != 0 then 0 else sendLen p.op p.ty p.n size

/-- Every send buffer of this package's ranks has been read. -/
def Coll.gathered (c : Coll) : Bool := c.locals.all (fun wp => wp.2.bytes.length = wp.2.sends c.size)

/-- How far the send buffers of an instance were read: whether a part stopped. -/
structure Gathered where
  s : State
  stopped : Bool

/-- Read on in every send buffer of this package's ranks, keeping each part's progress; a read that fails stops its part (R170, R217). -/
def State.gatherSends (s : State) (i : Nat) (c : Coll) (limit : Nat) : Gathered :=
  c.locals.foldl (fun (g : Gathered) (wp : Who × CollPart) =>
    let r := g.s.readSend (g.s.partCtx wp.1 wp.2) (s.collAway c wp.1.core) limit (wp.2.sends c.size) wp.2
    match r.failed with
    | some (cause, addr) => ⟨(r.s.engineFailure wp.1 .cp 3 cause 0 0 addr).stopPart i wp.2.rank, true⟩
    | none => { g with s := r.s.modPart i wp.2.rank (fun _ => r.part) }) ⟨s, false⟩

/-- The sends in rank order. -/
def Coll.inOrder (c : Coll) : List (List Byte × List Sens) :=
  (List.range c.size).filterMap (fun r => (c.parts.find? (fun p => p.rank = r)).map (fun p => (p.bytes, p.senses)))

/-- Where a part's segments go: the other packages of the group and, of what it has read, the other dies of this one that hold a rank. -/
def State.segmentDests (s : State) (c : Coll) (w : Who) (p : CollPart) : List Nat :=
  s.collPeers c ++ (if p.bytes.isEmpty then [] else
    (((s.collRing c).filter (fun e => e.toNat / 65536 = Config.packageNumber.toNat && dieOf (e.toNat % 1024) != dieOf w.core)).map
      (fun e => 1024 + dieOf (e.toNat % 1024))).eraseDups)

/-- Send this package's parts to the other packages and dies of the group on their flows (R136, R267). -/
def State.sendParts (s : State) (c : Coll) : State :=
  c.locals.foldl (fun (u : State) wp =>
    (s.segmentDests c wp.1 wp.2).foldl (fun (v : State) d =>
      v.enqueueFlow wp.1 c.part d (.coll c.group c.index wp.2.rank wp.2.ty wp.2.op wp.2.n wp.2.bytes)) u) s

/-- Segments of an instance are still on their way between the dies. -/
def State.segmentsCross (s : State) (c : Coll) : Bool :=
  s.flows.any (fun f => 1024 ≤ flowDest f.1 && flowPart f.1 = c.part && f.2.items.any (fun x => match x.2 with
    | .coll group index .. => group = c.group && index = c.index
    | _ => false))

/-- Whether a collective moved on: its state, or none where its turn has not come. -/
inductive CollRun where
  | moved (s : State) (c : Coll)
  | held (s : State)

/-- A port that an instance needs is down: every part of this package that has not stopped fails, whether or not its turn has come, as R217's
denial stops a copy (R227; the cause is DESIGN CHOICE, log 69). The instance goes once every rank's part is there. -/
def State.portFailure (s : State) (i : Nat) (c : Coll) : State :=
  let s := c.locals.foldl (fun (u : State) wp =>
    if wp.2.failed then u else (u.engineFailure wp.1 .cp 3 0x10 0 wp.2.done (Config.openValue s.free).toNat).stopPart i wp.2.rank)
    { s with free := s.free + 1 }
  if c.parts.length = c.size then { s with colls := s.colls.eraseIdx i } else s

/-- A port that an instance needs is down. -/
def State.portClosed (s : State) (c : Coll) : Bool := (s.collPeers c).any (fun k => !s.flowOpen c.part k)

/-- The send buffers of an instance are read, as far as a limit of their bytes; once all are, the segments are sent (R135, R177, R217). -/
def State.startColl (s : State) (i : Nat) (c : Coll) (limit : Nat) : CollRun :=
  if c.got then .moved s c
  else if c.differs then .held { s.failColl c 0x08 with colls := s.colls.eraseIdx i }
  else
    let g := s.gatherSends i c limit
    match g.s.colls[i]? with
    | none => .held g.s
    | some c =>
      if g.stopped || !c.gathered then .held g.s
      else
        let t := g.s.sendParts c
        .moved { t with colls := t.colls.modify i (fun c => { c with got := true }) } c

/-- Write the receive buffers of this package's ranks up to a limit of their bytes, keeping each part's progress; the failures met. -/
def State.scatterRecvs (s : State) (i : Nat) (c : Coll) (limit : Nat) : State × Bool × List (Nat × Nat × Nat) :=
  let sends := c.inOrder
  c.locals.foldl (fun (acc : State × Bool × List (Nat × Nat × Nat)) wp =>
    let p := wp.2
    let r := acc.1.writeRecv (acc.1.partCtx wp.1 p) (collTag p.ty) p.recv p.done limit
      (collResult p.op p.ty p.n p.rank (sends.map Prod.fst)) (collSens p.op p.ty p.n p.rank (sends.map Prod.snd))
    (r.s.modPart i p.rank (fun q => { q with done := r.done, ids := q.ids ++ r.ids }), acc.2.1 || r.waits,
      acc.2.2 ++ (r.failed.map (fun f => (p.rank, f.1, f.2))).toList)) (s, false, [])

/-- The receive buffers are published at fabric scope, and only then the parts complete or fail (R134, R135, R170). -/
def State.finishColl (s : State) (i : Nat) (fails : List (Nat × Nat × Nat)) : State :=
  let parts := ((s.colls[i]?).map Coll.locals).getD []
  let ids := unionNat (parts.flatMap (fun wp => wp.2.ids)) (parts.flatMap (fun wp => wp.2.sent))
  let by' : Agent := .core ((parts.head?.map (fun wp => wp.1.core)).getD 0)
  let s := { s.publishWrites ids .fabric by' with colls := s.colls.eraseIdx i }
  parts.foldl (fun (u : State) (wp : Who × CollPart) =>
    match fails.find? (fun f => f.1 = wp.2.rank) with
    | some (_, cause, addr) => u.engineFailure wp.1 .cp 3 cause 0 wp.2.done addr
    | none => ((u.perfWho wp.1 28 1).completeEngine wp.1 .cp ids wp.2.completion 0 3 0 wp.2.done).1) s

/-- The advances that complete an instance may travel to their counters (R136). -/
def State.collMayEnd (s : State) (c : Coll) : Bool :=
  c.locals.all (fun wp => wp.2.completion.all (s.advanceMayTravel wp.1 c.part))

/-- COLL_COMPLETE: instance i is performed, fails where its ranks differ or a port it needs is down, or waits for a translation, its segments
or its turn on a flow (R135, R136, R170, R177, R227). A part whose send cannot be read stops, and the other ranks wait for it. -/
def execCollComplete (i : Nat) (s : State) : Out :=
  match s.colls[i]? with
  | none => .next s
  | some c =>
    if s.collRuns c && s.portClosed c then .next (s.portFailure i c)
    else if !s.collReady c then .next s
    else
      let most := recvLen 2 0 4294967296 c.size
      match s.startColl i c most with
      | .held s => .next s
      | .moved s c =>
        if s.segmentsCross c then .next s
        else
          let r := s.scatterRecvs i c most
          .next (if r.2.1 || !r.1.collMayEnd c then r.1 else r.1.finishColl i r.2.2)

/-- A ring moves part of an instance: lines of its send buffers, and then of its receive buffers, that start below a limit (R177, R211). -/
def State.collSome (s : State) (i limit : Nat) : State :=
  match s.colls[i]? with
  | none => s
  | some c =>
    if !s.collReady c || s.portClosed c then s
    else
      match s.startColl i c limit with
      | .held s => s
      | .moved s c =>
        if s.segmentsCross c then s
        else
          let r := s.scatterRecvs i c limit
          if r.2.2.isEmpty then r.1 else s

end Sys2Proof.Machine
end

