-- ==== Sys2Proof/Machine/Sweep.lean ====
section
/-! DEFINITION. Special-function sweeps: the functions of R172 and R173 and the commands of R171, R174, R355 to R357. A
transcendental value is computed in fixed point to 2^-1000 before its one rounding (log 14). -/

namespace Sys2Proof.Machine

/-! ### Fixed point -/

/-- Fraction bits of the fixed-point values. -/
def fxBits : Nat := 1000
def fxOne : Int := (2 ^ fxBits : Nat)
def fxMul (a b : Int) : Int := a * b / fxOne
def fxDiv (a b : Int) : Int := a * fxOne / b

/-- The sum of the first n terms of a power series: `t` is the current term, `f i t` the next one. -/
def fxSeries (f : Nat → Int → Int) : Nat → Nat → Int → Int
  | 0, _, _ => 0
  | n + 1, i, t => if t = 0 then 0 else t + fxSeries f n (i + 1) (f i t)

/-- atanh(y) for a small y: y + y^3/3 + ...; the terms carry the powers. -/
def fxAtanh (y : Int) : Int :=
  let y2 := fxMul y y
  let rec' : Nat → Nat → Int → Int := fun n => n.rec (fun _ _ => 0) (fun _ ih i t => t / ((2 * i + 1 : Nat) : Int) + ih (i + 1) (fxMul t y2))
  rec' 330 0 y

/-- ln 2 = 2 atanh(1/3). -/
def fxLn2 : Int := 2 * fxAtanh (fxOne / 3)

/-- atan(1/k): the series of Machin's formula. -/
def fxAtanInv (k : Nat) : Int :=
  let rec' : Nat → Nat → Int → Int := fun n => n.rec (fun _ _ => 0)
    (fun _ ih i t => (if i % 2 = 0 then t else -t) / ((2 * i + 1 : Nat) : Int) + ih (i + 1) (t / ((k * k : Nat) : Int)))
  rec' 230 0 (fxOne / (k : Int))

def fxPi : Int := 16 * fxAtanInv 5 - 4 * fxAtanInv 239

def fxSqrt (a : Int) : Int := (Nat.sqrt (a.toNat * 2 ^ fxBits) : Nat)

/-- e^x as a mantissa in [1, 2) and a power of 2. -/
def fxExp (x : Int) : Int × Int :=
  let k := x / fxLn2
  let r := (x - k * fxLn2) / 1024
  let e := fxSeries (fun i t => fxMul t r / ((i + 1 : Nat) : Int)) 110 0 fxOne
  ((List.range 10).foldl (fun a _ => fxMul a a) e, k)

/-- Scale a fixed-point value by a power of 2. -/
def fxShift (a : Int) (k : Int) : Int := if 0 ≤ k then a * 2 ^ k.toNat else a / 2 ^ (-k).toNat

/-- e^x as a fixed-point value, for x of moderate size. -/
def fxExpVal (x : Int) : Int := let (m, k) := fxExp x; fxShift m k

/-- ln x for a positive value. -/
def fxLn (x : Int) : Int :=
  let k : Int := (Nat.log2 x.toNat : Int) - fxBits
  let m := fxShift x (-k)
  2 * fxAtanh (fxDiv (m - fxOne) (m + fxOne)) + k * fxLn2

/-- Phi(x) - 1/2 times the square root of 2 pi over e^(-x^2/2): x + x^3/3 + x^5/15 + ... -/
def fxPhiSeries (x : Int) : Int :=
  let x2 := fxMul x x
  fxSeries (fun i t => fxMul t x2 / ((2 * i + 3 : Nat) : Int)) 2600 0 x

/-- Phi(x) for |x| at most 20. -/
def fxPhi (x : Int) : Int :=
  let dens := fxDiv (fxExpVal (-(fxMul x x) / 2)) (fxSqrt (2 * fxPi))
  fxOne / 2 + fxMul dens (fxPhiSeries x)

/-- 1/(1+e^-x), for |x| at most 300. -/
def fxSigm (x : Int) : Int := fxDiv fxOne (fxOne + fxExpVal (-x))

/-! ### The functions (R172) -/

/-- A value to be rounded: exact zero, or sign, numerator and denominator. -/
structure Real where
  neg : Bool
  num : Nat
  den : Nat

/-- A fixed-point value as a rational; one below 2^-600 stands as a tiny value of its sign. -/
def Real.ofFx (neg : Bool) (a : Int) : Real :=
  if a.natAbs < 2 ^ 400 then ⟨neg, 1, 2 ^ 600⟩ else ⟨neg, a.natAbs, 2 ^ fxBits⟩

def FFmt.roundReal (f : FFmt) (rm : Nat) (r : Real) : Nat × BitVec 7 := f.round rm false r.neg r.num r.den

/-- The fixed-point form of m * 2^e with a sign, cut at 2^20 in magnitude. -/
def fxOf (neg : Bool) (m : Nat) (e : Int) : Int :=
  let big := (Nat.log2 m : Int) + e ≥ 20
  let a : Int := if big then fxOne * 2 ^ 20 else fxShift (m : Int) (e + fxBits)
  if neg then -a else a

/-- A value at the outer ends: above every finite value, or below the least subnormal. -/
def Real.huge (neg : Bool) : Real := ⟨neg, 2 ^ 1200, 1⟩
def Real.tiny (neg : Bool) : Real := ⟨neg, 1, 2 ^ 600⟩

/-- e^x. -/
def realExp (x : Int) : Real :=
  if x > 1000 * fxOne then .huge false
  else if x < -1000 * fxOne then .tiny false
  else
    let (m, k) := fxExp x
    if 0 ≤ k then ⟨false, (m * 2 ^ k.toNat).toNat, 2 ^ fxBits⟩ else ⟨false, m.toNat, 2 ^ fxBits * 2 ^ (-k).toNat⟩

/-- |x| times a value in (0, 1) given in fixed point; a value within 2^-600 of 1 stands just below it. -/
def scaleBy (neg : Bool) (m : Nat) (e : Int) (y : Int) : Real :=
  let y := if y ≥ fxOne then fxOne - 1 else y
  if y < 2 ^ 400 then .tiny neg
  else
    let n := m * y.toNat
    if 0 ≤ e then ⟨neg, n * 2 ^ e.toNat, 2 ^ fxBits⟩ else ⟨neg, n, 2 ^ fxBits * 2 ^ (-e).toNat⟩

/-- One value of a function of R172 for an operand pattern: result and flags. -/
def sfxValue (f : FFmt) (rm fn : Nat) (gelu : Bool) (w : Nat) : Nat × BitVec 7 :=
  let v := f.read w
  let one := (f.bias) * 2 ^ f.fbits
  let half := (f.bias - 1) * 2 ^ f.fbits
  match v with
  | .nan => (f.nan, 0)
  | .inf n =>
    match fn with
    | 0 | 1 => if n then (0, 0) else (f.inf false, 0)
    | 2 => if n then (f.nan, flIV) else (f.inf false, 0)
    | 3 => (f.signBit n, 0)
    | 4 => if n then (f.nan, flIV) else (0, 0)
    | 5 => if n then (0, 0) else (one, 0)
    | 6 => (f.signBit n + one, 0)
    | _ => if n then (f.signBit true, 0) else (f.inf false, 0)
  | .fin n m e =>
    if m = 0 then
      match fn with
      | 0 | 1 => (one, 0)
      | 2 => (f.inf true, flDZ)
      | 3 | 4 => (f.inf n, flDZ)
      | 5 => (half, 0)
      | _ => (f.signBit n, 0)
    else
      let x := fxOf n m e
      let lg : Int := (Nat.log2 m : Int) + e
      match fn with
      | 0 => f.roundReal rm (realExp x)
      | 1 =>
        if lg ≥ 12 then f.roundReal rm (if n then .tiny false else .huge false)
        else
          let k := x / fxOne
          let r := x - k * fxOne
          let r' : Real := if r = 0 then ⟨false, 2 ^ fxBits, 2 ^ fxBits⟩ else realExp (fxMul r fxLn2)
          f.roundReal rm (if 0 ≤ k then { r' with num := r'.num * 2 ^ k.toNat } else { r' with den := r'.den * 2 ^ (-k).toNat })
      | 2 =>
        if n then (f.nan, flIV)
        else if m = 2 ^ Nat.log2 m then
          (if lg = 0 then (0, 0) else f.roundReal rm ⟨lg < 0, lg.natAbs, 1⟩)
        else
          let k := Nat.log2 m
          let y := fxDiv (fxLn (fxShift (m : Int) ((fxBits : Int) - k))) fxLn2 + lg * fxOne
          f.roundReal rm (.ofFx (y < 0) y)
      | 3 => f.roundReal rm (if 0 ≤ e then ⟨n, 1, m * 2 ^ e.toNat⟩ else ⟨n, 2 ^ (-e).toNat, m⟩)
      | 4 =>
        if n then (f.nan, flIV)
        else
          let m' := if e % 2 = 0 then m else 2 * m
          let h : Int := (if e % 2 = 0 then e else e - 1) / 2
          let q := Nat.sqrt (2 ^ 400 / m')
          let exact := q * q * m' = 2 ^ 400
          let num := 2 * q + (if exact then 0 else 1)
          f.roundReal rm (if 0 ≤ h then ⟨false, num, 2 * 2 ^ 200 * 2 ^ h.toNat⟩ else ⟨false, num * 2 ^ (-h).toNat, 2 * 2 ^ 200⟩)
      | 5 =>
        if lg ≥ 8 then f.roundReal rm (if n then .tiny false else ⟨false, 2 ^ 600 - 1, 2 ^ 600⟩)
        else f.roundReal rm (.ofFx false (fxSigm x))
      | 6 =>
        if lg ≥ 8 then f.roundReal rm ⟨n, 2 ^ 600 - 1, 2 ^ 600⟩
        else
          let t := fxExpVal (2 * (if n then -x else x))
          f.roundReal rm (.ofFx n (fxDiv (t - fxOne) (t + fxOne)))
      | 7 =>
        if gelu then
          if lg ≥ 8 then f.roundReal rm (if n then .tiny true else scaleBy false m e fxOne)
          else
            let c := fxSqrt (fxDiv (2 * fxOne) fxPi)
            let u := fxMul c (x + fxMul x (fxMul x x) * 44715 / 1000000)
            let y := if u > 300 * fxOne then fxOne else if u < -300 * fxOne then 0 else fxSigm (2 * u)
            f.roundReal rm (scaleBy n m e y)
        else if lg ≥ 5 then f.roundReal rm (if n then .tiny true else scaleBy false m e fxOne)
        else f.roundReal rm (scaleBy n m e (fxPhi x))
      | _ =>
        if lg ≥ 8 then f.roundReal rm (if n then .tiny true else scaleBy false m e fxOne)
        else f.roundReal rm (scaleBy n m e (fxSigm x))

/-! ### Softmax-row (R173) -/

/-- A pairwise tree over a list of f32 patterns (R77), one level at a time. -/
def treeLevel (f : FFmt) (rm : Nat) : List Nat → List Nat × BitVec 7
  | a :: b :: rest =>
    let (x, g) := f.add rm a b
    let (xs, h) := treeLevel f rm rest
    (x :: xs, g ||| h)
  | xs => (xs, 0)

def treeSum (f : FFmt) (rm : Nat) : Nat → List Nat → Nat × BitVec 7
  | 0, xs => (xs.headD 0, 0)
  | n + 1, xs =>
    match xs with
    | [] => (0, 0)
    | [x] => (x, 0)
    | _ =>
      let (ys, g) := treeLevel f rm xs
      let (r, h) := treeSum f rm n ys
      (r, g ||| h)

/-- exp(y - m) rounded to f32 (R173): an exact difference, or a special value. -/
def softExp (rm : Nat) (y m : Term) : Nat × BitVec 7 :=
  match y, m with
  | .invalid, _ => (f32Fmt.nan, flIV)
  | .nan, _ => (f32Fmt.nan, 0)
  | _, .nan => (f32Fmt.nan, 0)
  | _, .invalid => (f32Fmt.nan, flIV)
  | .inf a, .inf b => if a = b then (f32Fmt.nan, flIV) else if a then (0, 0) else (f32Fmt.inf false, 0)
  | .inf a, .fin .. => if a then (0, 0) else (f32Fmt.inf false, 0)
  | .fin .., .inf b => if b then (f32Fmt.inf false, 0) else (0, 0)
  | .fin _ a, .fin _ b =>
    let d := a.add ⟨-b.i, b.e⟩
    if d.i = 0 then (127 * 2 ^ 23, 0)
    else f32Fmt.roundReal rm (realExp (fxOf (d.i < 0) d.i.natAbs d.e))

/-- The larger of two exact terms by R72: a NaN gives way. -/
def termMax (a b : Term) : Term :=
  match a, b with
  | .nan, x => x
  | .invalid, x => x
  | x, .nan => x
  | x, .invalid => x
  | .inf false, _ => .inf false
  | _, .inf false => .inf false
  | .inf true, x => x
  | x, .inf true => x
  | .fin n x, .fin m y => if (x.add ⟨-y.i, y.e⟩).i < 0 then .fin m y else .fin n x

/-- Round e/S to the type (R173). -/
def softDiv (f : FFmt) (rm e s : Nat) : Nat × BitVec 7 :=
  match f32Fmt.read e, f32Fmt.read s with
  | .fin _ m x, .fin _ k y =>
    if m = 0 then (0, 0)
    else if k = 0 then (f.nan, flIV)
    else
      let z := x - y
      f.round rm false false (if 0 ≤ z then m * 2 ^ z.toNat else m) (if 0 ≤ z then k else k * 2 ^ (-z).toNat)
  | .fin .., .inf _ => (0, 0)
  | _, _ => (f.nan, 0)

/-- A row of softmax (R173). -/
def softmaxRow (f : FFmt) (rm : Nat) (scale : Nat) (xs : List Nat) : List Nat × BitVec 7 :=
  let sc := bf16Fmt.read scale
  let ys := xs.map (fun x => sc.mul (f.read x))
  let m := ys.foldl termMax .nan
  let es := ys.map (fun y => softExp rm y m)
  let (s, g) := treeSum f32Fmt rm 15 (es.map Prod.fst)
  let os := es.map (fun e => softDiv f rm e.1 s)
  (os.map Prod.fst, (es.map Prod.snd ++ os.map Prod.snd).foldl (· ||| ·) g)

/-- A swept row (R172, R173). -/
def sweepRow (c : SweepCmd) (f : FFmt) (xs : List Nat) : List Nat × BitVec 7 :=
  let rm := c.frm.toNat % 4
  if c.fn = 9 then softmaxRow f rm c.smax.toNat xs
  else
    let rs := xs.map (sfxValue f rm c.fn c.gelu)
    (rs.map Prod.fst, (rs.map Prod.snd).foldl (· ||| ·) 0)

/-! ### Commands (R171, R356) -/

/-- Bytes of a row of a sweep. -/
def SweepCmd.rowLen (c : SweepCmd) : Nat := c.elems * (((ffmt c.ty).getD f32Fmt).width / 8)

/-- Read up to n bytes of a sweep's source that lie in one line of 256 bytes: the bytes and their sensitivity, or a failure's cause. -/
def State.sweepLoad (s : State) (w : Who) (c : SweepCmd) (a n : Nat) : Except Nat (List Byte × Sens × State) :=
  let k := s.core w.core
  let cl := clusterOf w.core
  let ph := s.sPhys w.core (s.ctx w).part c.hashKey a
  let tag := if c.srcS then (s.cluster cl).stags.get LineTag.reset (ph / 256) else k.xtags.get LineTag.reset (a / 256)
  if !(if c.srcS then s.rangeOk (.s cl) ph n else k.bufOk false a n) then .error 0x0F
  else if tag.fmt != 0 && tag.fmt != c.ty then .error 0x04
  else if c.srcS then .ok (s.homeBytes (.s cl) ph n, tag.sens, s.perfWho w 18 1)
  else .ok (k.x.bytes a n, tag.sens, s)

/-- Write bytes of a sweep's destination that lie in one line; S writes stay unpublished until the end. -/
def State.sweepStore (s : State) (w : Who) (c : SweepCmd) (a : Nat) (bs : List Byte) : State × List Nat :=
  if c.dstS then
    let cl := clusterOf w.core
    let ph := s.sPhys w.core (s.ctx w).part c.hashKey a
    let (t, ids, _) := (s.perfWho w 18 1).engineWrite (.s cl) ph bs
    ((t.tagS cl ph bs.length (fun _ l => l.written c.ty 0 c.sens)).forgetAdvances (.s cl) ph bs.length, ids)
  else (s.modCore w.core (fun k => k.putBuf false a bs (fun _ l => l.written c.ty 0 c.sens)), [])

/-- One access of a sweep (R89): it reads the next line of the row under way or, once the row is read whole, writes the next line of its
results (R171). Answers the state and the command with its progress, or a failure's cause and address. -/
def State.sweepAccess (s : State) (w : Who) (c : SweepCmd) : Except (Nat × Nat) (State × SweepCmd) :=
  match c.out with
  | none =>
    let a := c.src + c.next * c.stride + c.read.length
    match s.sweepLoad w c a (min (256 - a % 256) (c.rowLen - c.read.length)) with
    | .error cause => .error (cause, a)
    | .ok (bs, sens, s) =>
      let c := { c with read := c.read ++ bs, sens := c.sens.max sens }
      if c.read.length < c.rowLen then .ok (s, c)
      else
        let f := (ffmt c.ty).getD f32Fmt
        let (xs, g) := sweepRow c f (splitBits f.width c.elems (leNat c.read))
        .ok (s, { c with flags := c.flags ||| g, out := some (xs.flatMap (leBytes (f.width / 8))) })
  | some bs =>
    let a := c.dst + c.next * c.stride + (c.rowLen - bs.length)
    let n := 256 - a % 256
    let (s, more) := s.sweepStore w c a (bs.take n)
    let c := { c with ids := c.ids ++ more }
    if n < bs.length then .ok (s, { c with out := some (bs.drop n) })
    else .ok (s.perfWho w 14 1, { c with next := c.next + 1, read := [], sens := .pub, out := none })

/-- A sweep makes up to n further accesses, its rows in ascending order (R171), while its next row lies below a limit: the state, the
command with its progress, and a failure's cause and address. -/
def sweepLoop (w : Who) (limit : Nat) : Nat → State → SweepCmd → State × SweepCmd × Option (Nat × Nat)
  | 0, s, c => (s, c, none)
  | n + 1, s, c =>
    if limit ≤ c.next then (s, c, none)
    else
      match s.sweepAccess w c with
      | .error e => (s, c, some e)
      | .ok (s, c) => sweepLoop w limit n s c

/-- The accesses that a sweep makes at most. -/
def SweepCmd.accesses (c : SweepCmd) : Nat := c.rows * (2 * (c.rowLen / 256 + 2))

/-- The sweep at the head of a core's queue makes up to n further accesses, to rows below a limit. -/
def State.runSweep (s : State) (core n limit : Nat) : Option (State × SweepCmd × Option (Nat × Nat)) :=
  match (s.core core).sweeps with
  | [] => none
  | c :: rest =>
    let r := sweepLoop ⟨core, c.ctx⟩ (min limit c.rows) n s c
    some (r.1.modCore core (fun k => { k with sweeps := r.2.1 :: rest }), r.2)

/-- A row of a sweep is under way. -/
def SweepCmd.midRow (c : SweepCmd) : Bool := !c.read.isEmpty || c.out.isSome

/-- A started sweep completes its current row before its core is saved (R211); one that fails there fails after the resume. -/
def State.endSweepRow (s : State) (core : Nat) : State :=
  match (s.core core).sweeps with
  | [] => s
  | c :: _ =>
    if c.midRow then ((s.runSweep core c.accesses (c.next + 1)).map (fun r => if r.2.2.isSome then s else r.1)).getD s else s

/-- The sweep at the head of a core's queue makes all its accesses. -/
def State.finishSweep (s : State) (core : Nat) : Option (State × SweepCmd × Option (Nat × Nat)) :=
  let c := (s.core core).sweeps.head?
  s.runSweep core ((c.map SweepCmd.accesses).getD 0) ((c.map SweepCmd.rows).getD 0)

/-- SWEEP_COMPLETE: the sweep at the head of the queue finishes its rows and completes under R134, its advance in its turn on the flow
to its counter (R136), or fails under R170; none does on a core that is frozen (R211). Without a counter its S rows are published by the context's next release (R356), and so are those that a failing sweep has written (DESIGN CHOICE,
log 64). -/
def execSweepComplete (core : Nat) (s : State) : Out := s.onClock core fun s =>
  match s.finishSweep core with
  | none => .next s
  | some (s, c, fault) =>
    let w : Who := ⟨core, c.ctx⟩
    let part := (s.ctx w).part
    if fault.isNone && c.completion.any (fun x => !s.advanceMayTravel w part x) then .next s
    else
    let s := s.modCore core (fun k => { k with sweeps := k.sweeps.drop 1 })
    let own (s : State) : State := (s.orFlags w c.flags).modCtx w (fun x => { x with vis := unionNat c.ids x.vis })
    match fault with
    | some (cause, a) => .next ((own s).engineFailure w .sf 2 cause 0 (c.next * c.rowLen) a)
    | none =>
      match c.completion with
      | none => .next ((own s).modCtx w (fun x => x.drop .sf 1))
      | some comp => .next (s.completeEngine w .sf c.ids (some comp) c.flags 2 0 (c.rows * c.rowLen)).1

/-- SFX (R171, R355, R356). -/
def execSfx (gd : Guard) (a b c f : BitVec 5) (s : State) : Out :=
  s.guarded gd fun s =>
    if (s.core s.issue.core).sweeps.length ≥ 16 then s.blockOn (.queue .sweep)
    else s.roomFor .sf 1 fun s => s.awaitHandleIf (c != 0) (s.gw c) fun s =>
      let ga := (s.gw a).toNat
      let gb := (s.gw b).toNat
      let srcS := bitsOf ga 23 1 = 1
      let dstS := bitsOf ga 55 1 = 1
      let src := bitsOf ga 0 22
      let dst := bitsOf ga 32 22
      let elems := bitsOf gb 0 16
      let rows := bitsOf gb 16 16
      let stride := bitsOf gb 32 18
      let ty : Tag := BitVec.ofNat 4 (bitsOf gb 56 4)
      let size := tagBits ty / 8
      let lim (x : Bool) : Nat := s.extent s.issue.core s.cur.part (if x then 3 else 0)
      if bitsOf ga 22 1 != 0 || bitsOf ga 24 8 != 0 || bitsOf ga 54 1 != 0 || bitsOf ga 56 8 != 0 then s.raise 0x08 (s.gw a)
      else if bitsOf gb 50 6 != 0 || bitsOf gb 60 4 != 0 || elems = 0 || elems > 16384 || rows = 0 || rows > 4096 ||
          !(typeIn 8 10 ty) || stride % size != 0 then s.raise 0x08 (s.gw b)
      else if src % size != 0 || dst % size != 0 then s.raise 0x08 (s.gw a)
      else
        match outOfExtent (lim srcS) src stride 0 (elems * size) rows 1, outOfExtent (lim dstS) dst stride 0 (elems * size) rows 1 with
        | some x, _ => s.raise 0x06 (BitVec.ofNat 64 x)
        | none, some x => s.raise 0x06 (BitVec.ofNat 64 x)
        | none, none =>
        let cmd (comp : Option Completion) (s : State) : SweepCmd :=
          { ctx := s.issue.ctx % 4, fn := f.toNat, src, srcS, dst, dstS, elems, rows, stride, ty, completion := comp,
            regs := [s.gw a, s.gw b, s.gw c], hashKey := s.cur.hashKey, frm := s.cur.frm, gelu := s.cur.cfg.gelu,
            smax := s.cur.cfg.smax, next := 0, flags := 0, ids := [], read := [], sens := .pub, out := none }
        let put (comp : Option Completion) (s : State) : Out :=
          .next ((s.modCore s.issue.core (fun k => { k with sweeps := k.sweeps ++ [cmd comp s] })).modCur (fun x => x.bump .sf 1))
        if c = 0 then put none s
        else
          match s.checkHandle s.who s.cur.part s.cur.hashKey true (s.gw c) with
          | .trap cause v => s.raise cause v
          | .block m => s.blockMiss [m]
          | .ok key => put (some ⟨key, s.gw c, 1⟩) s

/-- SFCFG (R174, R357). -/
def execSfcfg (gd : Guard) (a : BitVec 5) (s : State) : Out :=
  s.guarded gd fun s =>
    let n := (s.gw a).toNat
    if bitsOf n 1 15 != 0 || bitsOf n 32 32 != 0 then s.raise 0x08 (s.gw a)
    else if s.gsens a != .pub then s.raise 0x05 (a.setWidth 64)
    else if bf16NonFinite (bitsOf n 16 16) then s.raise 0x0C (s.gw a)
    else .next (s.modCur (fun c => { c with cfg := { c.cfg with
      gelu := n % 2 = 1, smax := (s.gw a).extractLsb' 16 16 } }))

end Sys2Proof.Machine
end

