-- ==== Sys2Proof/Machine/Seal.lean ====
section
/-! DEFINITION. The seal engine, key rotation, checkpoints, SCRUB and DECL (R229 to R242, R308, R315, R324, R344, R347,
R350). -/

namespace Sys2Proof.Machine

/-- A 384-bit value as its 48 bytes. -/
def bytes384 (b : BitVec 384) : List Byte := leBytes 48 b.toNat

/-- SHA-384 of bytes (R220, R233). -/
def sha384 (bs : List Byte) : List Byte := (List.range 48).map (Config.sha384Byte bs)

/-- The firmware measurement of R235 and R240: SHA-384 over measurement blocks 1, 2 and 4 (R245). -/
def State.firmware (s : State) : List Byte :=
  sha384 (bytes384 (s.measurements.get 0 1) ++ bytes384 (s.measurements.get 0 2) ++ bytes384 (s.measurements.get 0 4))

/-- The measurement of a model slot, or zero (R220, R235). -/
def State.modelMeasurement (s : State) (slot : Option Nat) : List Byte :=
  match slot with
  | some k => bytes384 (s.key k).measurement
  | none => List.replicate 48 0

/-- What a command captures that reads under R133, with its number. -/
def State.capture (s : State) : EngCtx × State :=
  let (born, s) := s.fresh
  (⟨s.who, s.cur.part, s.cur.hashKey, s.ownStores s.who, s.copyVis, born⟩, s)

/-! ### Engine accesses of any length -/

/-- Read n bytes line by line. -/
def engineLoadAll (e : EngCtx) (space : Nat) : Nat → State → Nat → Nat → List Byte → Sens → Eng (List Byte × Sens)
  | 0, s, _, _, acc, sens => .ok (acc, sens) s
  | fuel + 1, s, a, n, acc, sens =>
    if n = 0 then .ok (acc, sens) s
    else
      let k := min n (64 - a % 64)
      if s.sealedPage e space a false then .fail 0x06 a s
      else
      match s.engineLoad e space a k with
      | .wait s => .wait s
      | .fail c v s => .fail c v s
      | .ok (bs, x) s => engineLoadAll e space fuel s (a + k) (n - k) (acc ++ bs) (sens.max x)

/-- What a run of writes left: the writes made and the bytes they wrote. -/
structure Written where
  ids : List Nat
  bytes : Nat
deriving DecidableEq, Repr

/-- Write bytes line by line; a failure keeps what was written. -/
def engineStoreAll (e : EngCtx) (space : Nat) (sens : Sens) : Nat → State → Nat → List Byte → Written → Eng Unit × Written
  | 0, s, _, _, r => (.ok () s, r)
  | fuel + 1, s, a, bs, r =>
    match bs with
    | [] => (.ok () s, r)
    | _ =>
      let k := 64 - a % 64
      if s.sealedPage e space a true then (.fail 0x06 a s, r)
      else
      match s.engineStore e space a (bs.take k) sens 0 0 with
      | .wait s => (.wait s, r)
      | .fail c v s => (.fail c v s, r)
      | .ok more s => engineStoreAll e space sens fuel s (a + k) (bs.drop k) ⟨r.ids ++ more, r.bytes + min k bs.length⟩

/-! ### SEAL (R231 to R237, R350 to R352) -/

/-- The ABSORBs of a context still in the channels, with their channels, oldest first. -/
def Core.absorbs (k : Core) (x : Nat) : List (Nat × CopyCmd) :=
  ((List.range 4).flatMap (fun ch => (k.chan ch).map (fun c => (ch, c)))).filter (fun e => e.2.ctx = x % 4 && e.2.absorb)

/-- SEAL OPEN (R231, R234, R352). A metadata line that has failed is a failure of the seal engine under R170 (R103): the session opens
failed, with bytes that are no data of the line (DEDUCED, log 23). -/
def execSealOpen (gd : Guard) (a c : BitVec 5) (s : State) : Out :=
  s.guarded gd fun s => s.roomFor .cp 1 fun s => s.awaitHandle (s.gw (a + 3)) fun s =>
    let slot := s.gw a
    let md := s.gw (a + 1)
    let rec' := s.gw (a + 2)
    if slot.toNat ≥ 8192 then s.raise 0x08 slot
    else if md.toNat ≥ 262144 then s.raise 0x08 md
    else if bitsOf rec'.toNat 56 8 != 0 then s.raise 0x08 rec'
    else if xLen < md.toNat + 64 then s.raise 0x06 md
    else if md.toNat % 64 != 0 then s.raise 0x07 md
    else if rec'.toNat % 4096 != 0 then s.raise 0x07 rec'
    else
      match s.checkHandle s.who s.cur.part s.cur.hashKey true (s.gw (a + 3)) with
      | .trap cause v => s.raise cause v
      | .block m => s.blockMiss [m]
      | .ok key =>
        let k := s.core s.issue.core
        let reads := k.bufOk false md.toNat 64
        let meta' := k.arrayBytes false md.toNat 64
        let model := leNat (meta'.take 2)
        let ks := s.key slot.toNat
        if !s.sealPresent then s.raise 0x16 1
        else if s.cur.sealState != 0 then s.raise 0x16 2
        else if ks.ty != 6 || ks.part.toNat != s.cur.part ||
            (model != 0xFFFF && !(model < 8192 && s.modelGranted s.cur.part model s.cur.kslot)) then s.raise 0x16 4
        else if s.gsens c != .pub then s.raise 0x05 (c.setWidth 64)
        else
          let z : Session :=
            { slot := slot.setWidth 13, model := BitVec.ofNat 16 model, metaBytes := meta'
              metaSens := (k.xtags.get LineTag.reset (md.toNat / 256)).sens
              record := rec'.toNat, completion := ⟨key, s.gw (a + 3), (s.gw c).toNat⟩, hashed := [], stopped := !reads,
              failed := if reads then none else some 0x0F, slotEdits := ks.edits, refused := false, ended := none, born := 0 }
          let s := s.modCur (fun x => { x with session := some z, sealState := 1, sealBytes := 0 })
          .next (if reads then s else s.engineRecord s.cur.part s.who 4 0x0F 0 0 md.toNat s.cur.taskId)

/-- SEAL ABSORB (R232, R234, R352). -/
def execAbsorb (gd : Guard) (a b c : BitVec 5) (h : BitVec 2) (s : State) : Out :=
  s.guarded gd fun s => s.channelRoom h.toNat fun s =>
    s.awaitHandle (s.gw (a + 3)) fun s =>
    match s.copyShape a b with
    | .error (cause, v) => s.raise cause v
    | .ok sh =>
      match s.checkHandle s.who s.cur.part s.cur.hashKey true (s.gw (a + 3)) with
      | .trap cause v => s.raise cause v
      | .block m => s.blockMiss [m]
      | .ok key =>
        let waiting := ((s.core s.issue.core).absorbs s.issue.ctx).foldl (fun n e => n + (e.2.shape.total - (e.2.done - e.2.input.length))) 0
        if !s.sealPresent then s.raise 0x16 1
        else if s.cur.sealState != 1 then s.raise 0x16 3
        else if s.cur.sealBytes.toNat + waiting + sh.total > 1099511627775 then s.raise 0x16 5
        else if s.gsens c != .pub then s.raise 0x05 (c.setWidth 64)
        else
          .next (s.issueCopy sh false (some ⟨key, s.gw (a + 3), (s.gw c).toNat⟩) (s.copyRegs a b c) (copyFn false h) none true)

/-- SEAL CLOSE (R233, R234, R352): STATE becomes 2. -/
def execSealClose (gd : Guard) (s : State) : Out :=
  s.guarded gd fun s => s.roomFor .cp 1 fun s =>
    if !s.sealPresent then s.raise 0x16 1
    else if s.cur.sealState != 1 then s.raise 0x16 3
    else
      let (born, s) := s.fresh
      .next (s.modCur (fun x => ({ x with
        session := x.session.map (fun z => { z with born := born }), sealState := 2 } : Ctx).bump .cp 1))

/-- Bytes are hashed (R232); after a failure the hash has stopped. -/
def State.hashBytes (s : State) (w : Who) (bs : List Byte) : State :=
  let c := s.ctx w
  match c.session with
  | none => s
  | some z =>
    if z.stopped then s
    else
      (s.perfWho w 29 bs.length).setCtx w { c with
        session := some { z with hashed := z.hashed ++ bs }
        sealBytes := BitVec.ofNat 40 (c.sealBytes.toNat + bs.length) }

/-- The ABSORB at the head of a channel is the oldest of its session that has not completed: its bytes are hashed next (R232). -/
def State.hashesNext (s : State) (core : Nat) (c : CopyCmd) : Bool :=
  c.absorb && ((s.core core).absorbs c.ctx).all (fun e => c.id ≤ e.2.id)

/-- As many as n of the bytes that the ABSORB at the head of a channel has moved are hashed, once no earlier one of its session is left: BYTES
rises byte by byte (R232, R418). -/
def State.hashSome (s : State) (core ch n : Nat) : State :=
  match (s.core core).chan ch with
  | [] => s
  | c :: rest =>
    if s.hashesNext core c then
      (s.hashBytes ⟨core, c.ctx⟩ (c.input.take n)).modCore core (fun k => k.setChan ch ({ c with input := c.input.drop n } :: rest))
    else s

/-- A failure of an ABSORB stops the hash and marks the session failed, which carries the cause of the first event that made it
incomplete (R232, R236). -/
def State.failSession (s : State) (w : Who) (cause : BitVec 8) : State :=
  s.modCtx w (fun x => { x with session := x.session.map (fun z =>
    { z with stopped := true, failed := if z.ended.isNone then some (z.failed.getD cause) else z.failed }) })

/-- The ABSORB at the head of a channel, the oldest of its session, moves and hashes its bytes and completes; a failure, a counter overflow among them (R170), stops the hash and marks the session failed (R232, R351). Its advance takes its
turn on the flow to its counter (R136). -/
def State.absorbEnds (s : State) (core : Nat) (ch : BitVec 2) : Out :=
  match (s.core core).chan ch.toNat with
  | [] => .next s
  | cmd :: _ =>
    let w : Who := ⟨core, cmd.ctx⟩
    if !s.hashesNext core cmd then .next s
    else
      match s.runCopy core ch.toNat cmd.accesses with
      | none => .next s
      | some r =>
        let s := r.s.hashSome core ch.toNat r.cmd.input.length
        match r.failed with
        | some (c, a) => .next ((s.failSession w (BitVec.ofNat 8 c)).failCopy core ch.toNat r.cmd 4 c a)
        | none =>
          if r.waits || !s.copyMayEnd core r.cmd then .next s
          else
            let tooFar := r.cmd.completion.any (fun x => 18446744073709551615 < s.ctrValue x.key + x.incr)
            .next ((if tooFar then s.failSession w 0x12 else s).finishCopy core ch.toNat r.cmd)

/-- ABSORB_COMPLETE: the ABSORB at the head of a channel comes to its end; on a core that is frozen it does so before the save (R211). -/
def execAbsorbComplete (core : Nat) (ch : BitVec 2) (s : State) : Out := s.onClock core fun s => s.absorbEnds core ch

/-- The status of the record that closes a session (R233, R236): 1 COMPLETE, 2 INCOMPLETE, 3 REFUSED, and its cause. R235 fixes the cause
byte of a COMPLETE record alone: a REFUSED one carries the cause of the session's failure or termination, and 0 without either (DESIGN CHOICE,
log 96). -/
def State.sealStatus (s : State) (part : Nat) (z : Session) : Nat × BitVec 8 :=
  let k := s.key z.slot.toNat
  let cause := (z.failed.orElse (fun _ => z.ended)).getD 0
  if z.refused || k.ty != 6 || k.part.toNat != part || k.edits != z.slotEdits then (3, cause)
  else if z.failed.isSome || z.ended.isSome then (2, cause) else (1, 0)

/-- The bytes of a seal record (R235). -/
def State.sealRecord (s : State) (w : Who) (z : Session) (status : Nat) (cause : BitVec 8) (serial : Nat) : List Byte :=
  let c := s.ctx w
  let k := s.key z.slot.toNat
  let refused := status = 3
  let body := leBytes 2 1 ++ leBytes 1 status ++ leBytes 1 (if refused then 0 else if k.alg then 2 else 1) ++
    leBytes 1 c.part ++ leBytes 1 cause.toNat ++ leBytes 2 c.kslot.toNat ++ leBytes 2 c.nestId.toNat ++
    leBytes 2 z.slot.toNat ++ leBytes 4 0 ++ leBytes 8 c.taskId.toNat ++ leBytes 8 c.sealBytes.toNat ++
    leBytes 8 serial ++ leBytes 24 0 ++
    s.modelMeasurement (if z.model = 0xFFFF then none else some z.model.toNat) ++ s.firmware ++ z.metaBytes ++
    (if refused then List.replicate 48 0 else sha384 z.hashed) ++ leBytes 16 0
  let len := if refused then 0 else if k.alg then 96 else 3309
  body ++ leBytes 4 len ++ leBytes 4 0 ++ (List.range len).map (Config.signatureByte z.slot.toNat body) ++
    List.replicate (4096 - 296 - len) 0

/-- The sensitivity under which a record is written: its metadata line's, exempt from R228 (R235). -/
def State.recordSens (s : State) (e : EngCtx) (z : Session) : Sens :=
  if z.metaSens = .seal then
    (match s.lookup e.ask (dieOf e.who.core) e.part z.record true with
    | .hit p a => if s.pageSens p a = .seal then .ten else .seal
    | _ => .seal)
  else z.metaSens

/-- SEAL_RECORD_WRITE (a CLOSE counts in CP, a termination in no class): once every ABSORB of a closing session has completed, the record is signed and written, the session
ends and its command completes; a refused write is recorded under R170 (R233, R236). -/
def execSealRecordWrite (core : Nat) (ctx : BitVec 2) (s : State) : Out :=
  let w : Who := ⟨core, ctx.toNat⟩
  let c := s.ctx w
  match c.session with
  | none => .next s
  | some z =>
    if c.sealState != 2 || !((s.core core).absorbs ctx.toNat).isEmpty then .next s
    else
      let (status, cause) := s.sealStatus c.part z
      let serial := (s.key z.slot.toNat).sessions + 1
      let t := s.modKey z.slot.toNat (fun k => { k with sessions := serial })
      let bs := s.sealRecord w z status cause serial
      let e : EngCtx := ⟨w, c.part, c.hashKey, [], c.vis, z.born⟩
      let close (s : State) : State := s.modCtx w (fun c =>
        let c := { c with
          session := none, sealState := 0, sealLast := BitVec.ofNat 2 status
          sealCause := if status = 2 then cause else 0 }
        if z.ended.isSome then c.bump .cp 1 else c)
      if !s.advanceMayTravel w c.part z.completion then .next s else
      match engineStoreAll e 4 (t.recordSens e z) 80 t z.record bs ⟨[], 0⟩ with
      | (.wait u, _) => .next (s.restart u c.part)
      | (.fail k a u, r) =>
        .next ((close (u.publishWrites r.ids .package (.core core))).engineFailure w .cp 4 k 0 r.bytes a)
      | (.ok _ u, r) => .next ((close u).completeEngine w .cp r.ids (some z.completion) 0 4 0 4096).1

/-! ### KROT (R238, R324, R325) -/

/-- Counter and increment checks of a privileged C-class command, then the issue. -/
def State.withCounter (s : State) (h : Word) (incr : BitVec 5) (f : Completion → State → Out) : Out :=
  match s.checkCompletion h incr with
  | .inl (.error (c, v)) => s.raise c v
  | .inr m => s.blockMiss [m]
  | .inl (.ok comp) => f comp s

/-- Put a C-class command in flight (R36). -/
def State.issueMisc (s : State) (c : MiscCmd) : Out :=
  .next ((s.modCore s.issue.core (fun k => { k with misc := k.misc ++ [c] })).modCur (fun x => x.bump .cp 1))

/-- KROT (R238, R325). -/
def execKrot (gd : Guard) (a b c : BitVec 5) (s : State) : Out :=
  s.guarded gd fun s => s.roomFor .cp 1 fun s => s.awaitHandle (s.gw b) fun s => s.privileged fun s =>
    let k := s.key (s.gw a).toNat
    if (s.gw a).toNat ≥ 8192 || !(k.ty = 1 || k.ty = 2 || k.ty = 5) || k.part.toNat != s.cur.part || k.sweep then
      s.raise 0x08 (s.gw a)
    else s.withCounter (s.gw b) c fun comp s =>
      let (stamp, s) := s.fresh
      s.issueMisc (.krot (s.issue.ctx % 4) s.cur.part ((s.gw a).setWidth 13) comp false stamp s.cur.taskId)

/-- The first command of a kind in flight on any core, with its core. -/
def State.findMisc (s : State) (p : MiscCmd → Bool) : Option (Nat × MiscCmd) :=
  s.cores.findSome? (fun c => (c.2.misc.find? p).map (fun m => (c.1, m)))

/-- Remove a command in flight. -/
def State.dropMisc (s : State) (core : Nat) (m : MiscCmd) : State :=
  s.modCore core (fun k => { k with misc := dropFirst (fun x => x = m) k.misc })

/-- The counter advance of a KROT, whose count has already fallen (R324). R170 gives a KROT no engine code: one whose counter would overflow
is recorded as the copy engine's (DESIGN CHOICE, log 79). -/
def State.lateAdvance (s : State) (core ctx part : Nat) (comp : Completion) (ids : List Nat) (taskId : Word) : State :=
  let sc := comp.key.widest
  let s := ((s.publishWrites ids sc (.core core)).countCtrOf part comp.key).sendAdvance ⟨core, ctx⟩ part comp.key comp.incr
  let (rid, s) := s.fresh
  let s := { s with releases := ⟨rid, .core core, sc, ids, none⟩ :: s.releases }
  match s.ctrAdvance comp.key comp.incr rid with
  | some s => s
  | none => s.engineRecord part ⟨core, ctx⟩ 1 0x12 0 0 comp.handle.toNat taskId

/-- The KROT that the slot table performs next: the first to arrive of those not yet installed that wait for no sweep of their slot
(R324; that a waiting one lets others pass is DEDUCED, log 68). -/
def State.nextKrot (s : State) : Option (Nat × MiscCmd) :=
  s.cores.foldl (fun best c => c.2.misc.foldl (fun best m => match m, best with
    | .krot _ _ k _ false t _, some (_, MiscCmd.krot _ _ _ _ _ t' _) =>
      if t < t' && !(s.key k.toNat).sweep then some (c.1, m) else best
    | .krot _ _ k _ false _ _, _ => if (s.key k.toNat).sweep then best else some (c.1, m)
    | _, _ => best) best) none

/-- KEY_INSTALL: the next KROT, when it is one of this slot, installs its new version everywhere; CP falls, and types 2 and 5
advance the counter at once (R238, R324). -/
def execKeyInstall (slot : Nat) (s : State) : Out :=
  match s.nextKrot with
  | some (core, .krot x part k comp inst t task) =>
    let ks := s.key slot
    if k.toNat != slot || (ks.ty != 1 && !s.advanceMayTravel ⟨core, x⟩ part comp) then .next s
    else
      let s := s.modKey slot (fun q => { q with pver := q.ver, pv := true, ver := q.ver + 1, sweep := q.ty = 1 })
      let s := s.modCtx ⟨core, x⟩ (fun c => c.drop .cp 1)
      if ks.ty = 1 then
        .next (s.modCore core (fun q => { q with
          misc := modFirst (fun m => m = .krot x part k comp inst t task) (fun _ => .krot x part k comp true t task) q.misc }))
      else .next ((s.dropMisc core (.krot x part k comp inst t task)).lateAdvance core x part comp [] task)
  | _ => .next s

/-- Re-encrypt under VER every line whose granule names the slot and that is held under PVER (R238). A line that does not read stays as it is,
and so does one whose counters cannot rise, as a dropped write does (R103, R225). -/
def resweep (slot : Nat) : List (Nat × LineKey) → State → State
  | [], s => s
  | (line, m) :: rest, s =>
    let k := s.key slot
    if granuleKey (s.granule (line * 64)) = slot && m.ver = k.pver && m.ver != k.ver && s.lineOk (line * 64) then
      match s.raiseTree (line * 64) with
      | some s => resweep slot rest { s with lineKeys := s.lineKeys.set line { m with ver := k.ver } }
      | none => resweep slot rest (s.spendTree (line * 64))
    else resweep slot rest s

/-- REENCRYPTION_SWEEP: the slices finish a rotated memory key's sweep; PVER is discarded and the counter advances
(R238). -/
def execReencryptionSweep (slot : Nat) (s : State) : Out :=
  let mine := s.findMisc (fun m => match m with
    | .krot _ _ k _ inst _ _ => k.toNat = slot && inst
    | _ => false)
  let travels := match mine with
    | some (core, .krot x part _ comp _ _ _) => s.advanceMayTravel ⟨core, x⟩ part comp
    | _ => true
  if !(s.key slot).sweep || !travels then .next s
  else
    let s := resweep slot s.lineKeys s
    let s := s.modKey slot (fun k => { k with sweep := false, pv := false })
    match mine with
    | some (core, .krot x part k comp inst t task) =>
      .next ((s.dropMisc core (.krot x part k comp inst t task)).lateAdvance core x part comp [] task)
    | _ => .next s

/-! ### SCRUB (R242, R347 to R349) -/

/-- The two conditions of R242 on the scrubbing core. -/
def Core.scrubReady (k : Core) (x : Nat) : Bool :=
  (List.range 4).all (fun i => i = x % 4 || (k.ctx i).task.isNone) &&
  k.queue.isEmpty && k.shutter.isNone && (List.range 4).all (fun i => (k.chan i).isEmpty) && k.sweeps.isEmpty

/-- SCRUB (R242, R349). -/
def execScrub (gd : Guard) (a b c : BitVec 5) (s : State) : Out :=
  s.guarded gd fun s =>
    let f := s.gw a
    if f.toNat % 16 != 0 && !(s.core s.issue.core).scrubReady s.issue.ctx then s.blockOn .scrub
    else s.roomFor .cp 1 fun s => s.awaitHandle (s.gw (a + 3)) fun s => s.privileged fun s =>
      let base := s.gw (a + 1)
      let len := s.gw (a + 2)
      let k := s.gw b
      let range := f.getLsbD 4
      let drop := k.getLsbD 15
      if f.toNat ≥ 32 then s.raise 0x08 f
      else if range && bitsOf base.toNat 56 8 != 0 then s.raise 0x08 base
      else if range && (len = 0 || len.toNat % 64 != 0 || len.toNat > 1099511627776) then s.raise 0x08 len
      else if bitsOf k.toNat 13 2 != 0 || bitsOf k.toNat 16 48 != 0 then s.raise 0x08 k
      else if drop && !((s.key (k.toNat % 8192)).ty = 3 && (s.key (k.toNat % 8192)).part.toNat = s.cur.part) then
        s.raise 0x08 k
      else if range && base.toNat % 64 != 0 then s.raise 0x07 base
      else s.withCounter (s.gw (a + 3)) c fun comp s =>
        let (born, s) := s.fresh
        s.issueMisc (.scrub (s.issue.ctx % 4) (f.setWidth 5) (if range then base.toNat else 0)
          (if range then len.toNat else 0) (if drop then some (k.setWidth 13, s.cur.kslot) else none) comp
          born)

/-- Zero a partition's S window of a cluster (R242): its rows are those of its window-adjusted addresses, whatever the key
(R94). The zeros are the locations' new initial values. -/
def State.zeroWindow (s : State) (core part : Nat) : State :=
  let (base, size) := s.window core part
  let cl := clusterOf core
  let inside (ph : Nat) : Bool := base / 8192 ≤ ph / 256 % 512 && ph / 256 % 512 < (base + size) / 8192
  let s := s.modCluster cl (fun k => { k with
    s := k.s.filter (fun e => !inside e.1)
    stags := k.stags.filter (fun e => !inside (e.1 * 256))
    sbad := k.sbad.filter (fun l => !inside (l * 256)) })
  { s with
    hist := s.hist.filter (fun w => !(w.place = .s cl && inside w.addr))
    ctrRels := s.ctrRels.filter (fun e => match e.1 with
      | .sword c x => !(c = cl && inside x)
      | _ => true) }

/-- Write zero lines over a range, until one fails or waits. -/
def zeroLines (e : EngCtx) : Nat → State → Nat → List Nat → Eng (List Nat) × List Nat × Nat
  | 0, s, a, ids => (.ok ids s, ids, a)
  | n + 1, s, a, ids =>
    match s.engineStore e 4 a (List.replicate 64 0) .pub 0 0 with
    | .wait s => (.wait s, ids, a)
    | .fail c v s => (.fail c v s, ids, a)
    | .ok more s => zeroLines e n s (a + 64) (ids ++ more)

/-- SCRUB_COMPLETE: the named buffers, the window and the range are zeroed, the grant is dropped and the counter advances
(R242, R347, R348). The bytes completed of one that fails in its range are those of the range: the spec does not say whether what it has
zeroed of the buffers counts (DESIGN CHOICE, log 79). -/
def execScrubComplete (core : Nat) (ctx : BitVec 2) (s : State) : Out :=
  let w : Who := ⟨core, ctx.toNat⟩
  let c := s.ctx w
  match (s.core core).misc.find? (fun m => match m with
    | .scrub x .. => x = ctx.toNat
    | _ => false) with
  | some (.scrub x f a len drop comp born) =>
    if !s.advanceMayTravel w c.part comp then .next s else
    let e : EngCtx := ⟨w, c.part, c.hashKey, [], c.vis, born⟩
    let t := s.modCore core (fun k =>
      let k := if f.getLsbD 0 then { k with x := [], xtags := [], xbad := [] } else k
      let k := if f.getLsbD 1 then { k with y := [], ytags := [], ybad := [] } else k
      if f.getLsbD 2 then { k with w := [], wbad := [], active := .reset, shadow := .reset } else k)
    let t := if f.getLsbD 3 then t.zeroWindow core c.part else t
    let m := MiscCmd.scrub x f a len drop comp born
    match zeroLines e (len / 64) t a [] with
    | (.wait u, _) => .next (s.restart u c.part)
    | (.fail k v u, ids, _) =>
      .next (((u.dropMisc core m).publishWrites ids .package (.core core)).engineFailure w .cp 1 k 0 (ids.length * 64) v)
    | (.ok ids u, _) =>
      let u := u.dropMisc core m
      let u := match drop with
        | some (slot, tenant) => u.modKey slot.toNat (fun k => { k with grants := k.grants.filter (fun g => g != tenant) })
        | none => u
      .next (u.completeEngine w .cp ids (some comp) 0 1 0 len).1
  | _ => .next s

/-! ### CKPT and RSTR (R239 to R241, R308, R309, R344 to R346) -/

/-- CKPT (R239, R308, R309): the serial of the slot is consumed, and the key versions are captured, at issue (R324). -/
def execCkpt (gd : Guard) (a c : BitVec 5) (s : State) : Out :=
  s.guarded gd fun s => s.roomFor .cp 1 fun s => s.awaitHandle (s.gw (a + 3)) fun s =>
    let g0 := s.gw a
    let img := s.gw (a + 1)
    let g2 := s.gw (a + 2)
    let n := bitsOf g0.toNat 56 8
    let list := bitsOf g0.toNat 0 56
    let slot := bitsOf g2.toNat 0 13
    let named := g2.getLsbD 31
    let model := bitsOf g2.toNat 16 13
    let ks := s.key slot
    if n = 0 || n > 64 then s.raise 0x08 g0
    else if bitsOf img.toNat 56 8 != 0 then s.raise 0x08 img
    else if bitsOf g2.toNat 13 3 != 0 || bitsOf g2.toNat 29 2 != 0 || bitsOf g2.toNat 32 32 != 0 || ks.ty != 5 ||
        ks.part.toNat != s.cur.part || (named && !s.modelGranted s.cur.part model s.cur.kslot) then s.raise 0x08 g2
    else if list % 64 != 0 then s.raise 0x07 (BitVec.ofNat 64 list)
    else if img.toNat % 4096 != 0 then s.raise 0x07 img
    else s.withCounter (s.gw (a + 3)) c fun comp s =>
      let (e, s) := s.capture
      let serial := ks.images + 1
      (s.modKey slot (fun k => { k with images := serial })).issueMisc
        (.ckpt (s.issue.ctx % 4) list n img.toNat (BitVec.ofNat 13 slot) (if named then some (BitVec.ofNat 13 model) else none)
          s.cur.kslot (ks.ver, (s.key s.cur.kslot.toNat).ver, (s.key model).ver) serial comp e.hashKey e.own e.vis e.born)

/-- A range-list entry (R239): space, address and length. -/
def rangeEntry (bs : List Byte) : Nat × Nat × Nat :=
  let w0 := leNat (bs.take 8)
  (bitsOf w0 61 3, bitsOf w0 0 56, leNat ((bs.drop 8).take 8))

/-- Read the ranges of a checkpoint in list order (R239, R309). -/
def readRanges (e : EngCtx) : List (Nat × Nat × Nat) → State → List Byte → Eng (List Byte)
  | [], s, acc => .ok acc s
  | (space, a, len) :: rest, s, acc =>
    if !(space = 0 || space = 1 || space = 3 || space = 4) || len = 0 || len > 4294967296 then .fail 0x08 a s
    else
      match engineLoadAll e space (len / 64 + 2) s a len [] .pub with
      | .wait s => .wait s
      | .fail c v s => .fail c v s
      | .ok (bs, sens) s => if sens = .seal then .fail 0x05 a s else readRanges e rest s (acc ++ bs)

/-- Cut a list into pieces of 16 bytes. -/
def cut16 : Nat → List Byte → List (List Byte)
  | 0, _ => []
  | n + 1, bs => bs.take 16 :: cut16 n (bs.drop 16)

/-- Bytes XORed with a keystream (R239). -/
def streamXor (keys : Nat × Nat × Nat × Nat × Nat) (iv : List Byte) (bs : List Byte) : List Byte :=
  bs.zipIdx.map (fun b => b.1 ^^^ Config.ckptStreamByte keys iv b.2)

/-- The initial value of an image (R308). -/
def ckptIv (serial : Nat) : List Byte := leBytes 8 serial ++ leBytes 4 0

/-- The versions that a CKPT captured, of the keys of its slot, its tenant and its model slot (R324). -/
abbrev CkptVers := BitVec 16 × BitVec 16 × BitVec 16

/-- The names of the data key of an image (R239): slot and version, tenant and version, serial. -/
def ckptKeys (slot tenant : BitVec 13) (vers : CkptVers) (serial : Nat) : Nat × Nat × Nat × Nat × Nat :=
  (slot.toNat, vers.1.toNat, tenant.toNat, vers.2.1.toNat, serial)

/-- The header of a checkpoint image (R240): 1,280 bytes, with the range list; where no model slot is named, the model key version is 0, which
R240 does not say (DESIGN CHOICE, log 87). -/
def State.ckptHeader (s : State) (part n : Nat) (tenant slot : BitVec 13) (model : Option (BitVec 13)) (vers : CkptVers)
    (serial len : Nat) (lb : List Byte) : List Byte :=
  leBytes 2 1 ++ leBytes 1 n ++ leBytes 1 part ++ leBytes 2 tenant.toNat ++ leBytes 2 slot.toNat ++
  leBytes 2 vers.1.toNat ++ leBytes 2 vers.2.1.toNat ++
  leBytes 2 ((model.map BitVec.toNat).getD 0xFFFF) ++
  leBytes 2 ((model.map (fun _ => vers.2.2.toNat)).getD 0) ++ leBytes 8 serial ++
  leBytes 8 len ++ s.firmware ++ s.modelMeasurement (model.map BitVec.toNat) ++ ckptIv serial ++ leBytes 116 0 ++
  lb ++ leBytes (1024 - 16 * n) 0

/-- The checkpoint image (R239, R240): header, ciphertext and tag. -/
def State.ckptImage (s : State) (part n : Nat) (tenant slot : BitVec 13) (model : Option (BitVec 13)) (vers : CkptVers)
    (serial : Nat) (lb plain : List Byte) : List Byte :=
  let keys := ckptKeys slot tenant vers serial
  let cipher := streamXor keys (ckptIv serial) plain
  let head := s.ckptHeader part n tenant slot model vers serial cipher.length lb
  head ++ cipher ++ (List.range 16).map (Config.ckptTagByte keys (ckptIv serial) head cipher)

/-- CKPT_COMPLETE: the ranges are read, the image of R240 is written and the counter advances, or the failure is recorded
(R239, R240, R309). -/
def execCkptComplete (core : Nat) (ctx : BitVec 2) (s : State) : Out :=
  let w : Who := ⟨core, ctx.toNat⟩
  match (s.core core).misc.find? (fun m => match m with
    | .ckpt x .. => x = ctx.toNat
    | _ => false) with
  | some (.ckpt x list n img slot model tenant vers serial comp hk own vis born) =>
    let part := (s.ctx w).part
    let e : EngCtx := ⟨w, part, hk, own, vis, born⟩
    let m := MiscCmd.ckpt x list n img slot model tenant vers serial comp hk own vis born
    if !s.advanceMayTravel w part comp then .next s else
    let fail (s : State) (r : Written) (k v : Nat) : Out :=
      .next (((s.dropMisc core m).publishWrites r.ids .package (.core core)).engineFailure w .cp 1 k 0 r.bytes v)
    match engineLoadAll e 4 (n + 2) s list (16 * n) [] .pub with
    | .wait u => .next (s.restart u part)
    | .fail k v u => fail u ⟨[], 0⟩ k v
    | .ok (lb, _) u =>
      match readRanges e ((cut16 n lb).map rangeEntry) u [] with
      | .wait u => .next (s.restart u part)
      | .fail k v u => fail u ⟨[], 0⟩ k v
      | .ok plain u =>
        let bytes := u.ckptImage part n tenant slot model vers serial lb plain
        match engineStoreAll e 4 .pub (bytes.length / 64 + 2) u img bytes ⟨[], 0⟩ with
        | (.wait v, _) => .next (s.restart v part)
        | (.fail k v u, r) => fail u r k v
        | (.ok _ u, r) => .next ((u.dropMisc core m).completeEngine w .cp r.ids (some comp) 0 1 0 bytes.length).1
  | _ => .next s

/-- RSTR (R241, R344, R346). -/
def execRstr (gd : Guard) (g : BitVec 5) (s : State) : Out :=
  s.guarded gd fun s => s.roomFor .cp 1 fun s => s.awaitHandle (s.gw (g + 1)) fun s => s.privileged fun s =>
    let img := s.gw g
    if img.toNat % 4096 != 0 then s.raise 0x07 img
    else if bitsOf img.toNat 56 8 != 0 then s.raise 0x10 img
    else s.withCounter (s.gw (g + 1)) (g + 2) fun comp s =>
      let (e, s) := s.capture
      s.issueMisc (.rstr (s.issue.ctx % 4) img.toNat s.cur.kslot comp e.hashKey e.own e.vis e.born)

/-- Write restored ranges in list order, as TEN data (R241, R345). -/
def writeRanges (e : EngCtx) : List (Nat × Nat × Nat) → State → List Byte → Written → Eng Unit × Written
  | [], s, _, r => (.ok () s, r)
  | (space, a, len) :: rest, s, bs, r =>
    match engineStoreAll e space .ten (len / 64 + 2) s a (bs.take len) r with
    | (.ok _ s, r) => writeRanges e rest s (bs.drop len) r
    | r => r

/-- The checks of R345 on an image's header, before the tag: the data key's names, or a failure. -/
def State.imageKeys (s : State) (part : Nat) (tenant : BitVec 13) (h : List Byte) : Option (Nat × Nat × Nat × Nat × Nat) :=
  let u16 (o : Nat) : Nat := leNat ((h.drop o).take 2)
  let slot := u16 6
  let k := s.key slot
  let t := s.key (u16 4)
  if u16 0 != 1 || (h.getD 3 0).toNat != part || u16 4 != tenant.toNat || k.ty != 5 || k.part.toNat != part ||
      !k.holds (u16 8) || !t.holds (u16 10) then none
  else some (slot, u16 8, u16 4, u16 10, leNat ((h.drop 16).take 8))

/-- RSTR_COMPLETE: the image is verified and its ranges are written, or a copy failure is recorded (R241, R345). -/
def execRstrComplete (core : Nat) (ctx : BitVec 2) (s : State) : Out :=
  let w : Who := ⟨core, ctx.toNat⟩
  match (s.core core).misc.find? (fun m => match m with
    | .rstr x .. => x = ctx.toNat
    | _ => false) with
  | some (.rstr x img tenant comp hk own vis born) =>
    let part := (s.ctx w).part
    let e : EngCtx := ⟨w, part, hk, own, vis, born⟩
    let m := MiscCmd.rstr x img tenant comp hk own vis born
    if !s.advanceMayTravel w part comp then .next s else
    let fail (s : State) (r : Written) (k v : Nat) : Out :=
      .next (((s.dropMisc core m).publishWrites r.ids .package (.core core)).engineFailure w .cp 1 k 0 r.bytes v)
    match engineLoadAll e 4 22 s img 1280 [] .pub with
    | .wait u => .next (s.restart u part)
    | .fail k v u => fail u ⟨[], 0⟩ k v
    | .ok (h, _) u =>
      match u.imageKeys part tenant h with
      | none => fail u ⟨[], 0⟩ 0x0E img
      | some keys =>
        let len := leNat ((h.drop 24).take 8)
        match engineLoadAll e 4 (len / 64 + 3) u (img + 1280) (len + 16) [] .pub with
        | .wait u => .next (s.restart u part)
        | .fail k v u => fail u ⟨[], 0⟩ k v
        | .ok (body, _) u =>
          let cipher := body.take len
          let iv := (h.drop 128).take 12
          let model := leNat ((h.drop 12).take 2)
          let meas := if model = 0xFFFF then List.replicate 48 0 else bytes384 (u.key model).measurement
          if body.drop len != (List.range 16).map (Config.ckptTagByte keys iv h cipher) then fail u ⟨[], 0⟩ 0x0F img
          else if (h.drop 32).take 48 != u.firmware || (h.drop 80).take 48 != meas then fail u ⟨[], 0⟩ 0x0E img
          else
            let n := (h.getD 2 0).toNat
            match writeRanges e ((cut16 n (h.drop 256)).map rangeEntry) u (streamXor keys iv cipher) ⟨[], 0⟩ with
            | (.wait v, _) => .next (s.restart v part)
            | (.fail k v u, r) => fail u r k v
            | (.ok _ u, r) => .next ((u.dropMisc core m).completeEngine w .cp r.ids (some comp) 0 1 0 len).1
  | _ => .next s

/-! ### DECL (R229, R315, R316) -/

/-- The sensitivity of the register a DECL names, or none where its file has no such register. -/
def Ctx.declTarget (c : Ctx) (kind reg : Nat) : Option Sens :=
  match kind with
  | 0 => some (c.gs (BitVec.ofNat 5 reg))
  | 1 => some (c.fileV (BitVec.ofNat 5 reg)).sens
  | 2 => if reg < 8 then some (c.readP (BitVec.ofNat 3 reg)).sens else none
  | 3 => if reg < 8 then some (c.readM (BitVec.ofNat 3 reg)).sens else none
  | 4 => if reg < 4 then some (c.readQ (BitVec.ofNat 2 reg)).sens else none
  | _ => none

/-- Lower the sensitivity of a register to a level. -/
def Ctx.declReg (c : Ctx) (kind reg : Nat) (lv : Sens) : Ctx :=
  match kind with
  | 0 => let r := c.readG (BitVec.ofNat 5 reg); c.writeReg (.g (BitVec.ofNat 5 reg)) (r.val.setWidth 2048) 0 (r.sens.min lv)
  | 1 => let r := c.fileV (BitVec.ofNat 5 reg); c.writeReg (.v (BitVec.ofNat 5 reg)) r.val r.fmt (r.sens.min lv)
  | 2 => let r := c.readP (BitVec.ofNat 3 reg)
         c.writeReg (.p (BitVec.ofNat 3 reg)) (BitVec.ofNat 2048 r.val.toNat) 0 (r.sens.min lv)
  | 3 => let r := c.readM (BitVec.ofNat 3 reg); c.writeReg (.m (BitVec.ofNat 3 reg)) (r.val.setWidth 2048) 0 (r.sens.min lv)
  | 4 => let r := c.readQ (BitVec.ofNat 2 reg); c.writeReg (.q (BitVec.ofNat 2 reg)) (r.val.setWidth 2048) r.fmt (r.sens.min lv)
  | _ => c

/-- Lower the sensitivity of the lines of a list. -/
def declLines (m : SMap LineTag) (lines : List Nat) (lv : Sens) : SMap LineTag :=
  lines.foldl (fun m l => let t := m.get LineTag.reset l; m.set l { t with sens := t.sens.min lv }) m

/-- The lines within their extent that a DECL names in a space, by number, S lines under the HASHKEY in force (R93, R315). -/
def State.declList (s : State) (space addr n : Nat) : List Nat :=
  ((List.range n).filter (fun i => addr + 256 * i < s.extent s.issue.core s.cur.part space)).map (fun i =>
    if space = 3 then s.sPhys s.issue.core s.cur.part s.cur.hashKey (addr + 256 * i) / 256 else addr / 256 + i)

def State.tagsOf (s : State) (space : Nat) : SMap LineTag :=
  match space with
  | 0 => (s.core s.issue.core).xtags
  | 1 => (s.core s.issue.core).ytags
  | _ => (s.cluster (clusterOf s.issue.core)).stags

def State.setTagsOf (s : State) (space : Nat) (m : SMap LineTag) : State :=
  match space with
  | 0 => s.modCore s.issue.core (fun k => { k with xtags := m })
  | 1 => s.modCore s.issue.core (fun k => { k with ytags := m })
  | _ => s.modCluster (clusterOf s.issue.core) (fun k => { k with stags := m })

/-- DECL (R229, R315, R316). -/
def execDecl (gd : Guard) (g : BitVec 5) (s : State) : Out :=
  s.guarded gd fun s => s.privileged fun s =>
    let t := s.gw g
    let n := t.toNat
    let kind := bitsOf n 0 3
    let level := bitsOf n 3 2
    let reg := bitsOf n 5 5
    let lv := Sens.ofCode level
    if level ≥ 2 || bitsOf n 10 6 != 0 || bitsOf n 54 7 != 0 then s.raise 0x08 t
    else if kind ≤ 4 then
      if bitsOf n 16 48 != 0 then s.raise 0x08 t
      else
        match s.cur.declTarget kind reg with
        | none => s.raise 0x08 t
        | some x =>
          if x = .seal then s.raise 0x08 t
          else if kind = 1 && s.v31Busy (BitVec.ofNat 5 reg) then s.raise 0x17 0
          else .next (s.modCur (fun c => c.declReg kind reg lv))
    else if kind = 5 then
      let lines := bitsOf n 16 16
      let addr := bitsOf n 32 22
      let space := bitsOf n 61 3
      let named := s.declList space addr lines
      if reg != 0 || lines = 0 || lines > 1024 || !(space = 0 || space = 1 || space = 3) then s.raise 0x08 t
      else if named.any (fun l => ((s.tagsOf space).get LineTag.reset l).sens = .seal) then s.raise 0x08 t
      else if s.extent s.issue.core s.cur.part space < addr + 256 * lines then s.raise 0x06 (BitVec.ofNat 64 addr)
      else if addr % 256 != 0 then s.raise 0x07 (BitVec.ofNat 64 addr)
      else .next (s.setTagsOf space (declLines (s.tagsOf space) named lv))
    else s.raise 0x08 t

end Sys2Proof.Machine
end

