-- ==== Sys2Proof/Machine/AtsEvents.lean ====
section
/-! DEFINITION. Translation replies, page requests and invalidations (R215 to R218). -/

namespace Sys2Proof.Machine

/-! ### Replies (R216, R217) -/

/-- The misses that the contexts of a die wait for. -/
def State.waitedMisses (s : State) (die : Nat) : List (Who × Miss) :=
  (s.cores.filter (fun k => dieOf k.1 = die)).flatMap (fun k => [0, 1, 2, 3].flatMap (fun x => match (k.2.ctx x).block with
    | some (.translation ms) => ms.map (fun m => (⟨k.1, x⟩, m))
    | _ => []))

/-- Misses that waited their turn are asked for when a request ends (R216). -/
def State.askAgain (s : State) (die : Nat) : State :=
  (s.waitedMisses die).foldl (fun (u : State) e => match u.lookup (.slot e.1) die e.2.pasid (4096 * e.2.page) e.2.write with
    | .miss _ => u.requestAts (.slot e.1) die e.2
    | _ => u) s

/-- A reply grants the access of a miss. -/
def replyGrants (r : AtsReply) (m : Miss) : Bool :=
  r.granted && (r.writable || !m.write) && r.va ≤ 4096 * m.page && 4096 * m.page < r.va + 2 ^ r.logSize

/-- Enter a page in the cache of 65,536 entries (R215). R215 does not say which entry makes room in a full one: the oldest does (DESIGN CHOICE,
log 97). -/
def Die.fill (d : Die) (pasid : Nat) (r : AtsReply) : Die :=
  { d with dtc := (⟨pasid, r.va, r.logSize, r.dest, r.writable⟩ :: d.dtc).take 65536 }

/-- A reply that can come: one of the seven page sizes, on its own boundary (R12), and for this package's HBM a frame of a stack that is present
(R16, R98, R270); a peer package has a number below 1,024 (R268). -/
def State.replyPossible (s : State) (r : AtsReply) : Bool :=
  [12, 16, 21, 25, 29, 30, 34].contains r.logSize && r.va % 2 ^ r.logSize = 0 &&
  (match r.dest with
  | .hbm d => d + 2 ^ r.logSize ≤ s.hbmSize
  | .peer k _ => k < 1024
  | .host _ => true)

/-- ATS_COMPLETION: the reply to the i-th outstanding request of a die. A reply that an invalidation overtook is discarded and
the miss requested again; a grant serves every miss within its page; too little raises a page request,
though a page that may be read is entered for the reads (R216, R218). -/
def execAtsCompletion (die i : Nat) (reply : AtsReply) (s : State) : Out :=
  let d := s.die die
  match d.ats[i]? with
  | none => .next s
  | some r =>
    if r.pri || (reply.granted && !s.replyPossible reply) then .next s
    else if r.stale then
      .next ((s.modDie die (fun d => { d with ats := d.ats.set i { r with stale := false } })).perfAdd r.miss.pasid 19 1)
    else if replyGrants reply r.miss then
      let served (x : AtsReq) : Bool := !x.stale && x.miss.pasid = r.miss.pasid && replyGrants reply x.miss
      let s := s.modDie die (fun d => { d.fill r.miss.pasid reply with ats := d.ats.filter (fun x => !served x) })
      .next (s.askAgain die)
    else if (d.ats.filter (fun (x : AtsReq) => x.pri)).length ≥ 256 then .next s
    else
      let reads := replyGrants reply { r.miss with write := false }
      .next ((s.modDie die (fun d => { (if reads then d.fill r.miss.pasid reply else d) with ats := d.ats.set i { r with pri := true } })).perfAdd r.miss.pasid 20 1)

/-- The i-th request of a die ends in a denial, which is kept for everyone who waits for it (R216, R217). -/
def State.deny (s : State) (die i : Nat) (r : AtsReq) : State :=
  (s.modDie die (fun d => { d with ats := d.ats.eraseIdx i, denied := (r.miss, r.askers) :: d.denied })).askAgain die

/-- PRG_RESPONSE: Success asks for the translation again; another response is a denial (R216). -/
def execPrgResponse (die i : Nat) (ok : Bool) (s : State) : Out :=
  match (s.die die).ats[i]? with
  | none => .next s
  | some r =>
    if !r.pri then .next s
    else if ok then .next (s.modDie die (fun d => { d with ats := d.ats.set i { r with pri := false, stale := false } }))
    else .next (s.deny die i r)

/-- ATS_TIMEOUT: no response to a page request within 1 s is a denial (R216). -/
def execAtsTimeout (die i : Nat) (s : State) : Out :=
  match (s.die die).ats[i]? with
  | none => .next s
  | some r => if r.pri then .next (s.deny die i r) else .next s

/-! ### Invalidation (R218) -/

/-- An entry meets a range of virtual addresses. -/
def DtcEntry.meets (e : DtcEntry) (pasid va size : Nat) : Bool := e.pasid = pasid && overlaps e.va (2 ^ e.logSize) va size

/-- A place lies in the frame of an entry. -/
def DtcEntry.frames (e : DtcEntry) (p : Place) (a : Nat) : Bool :=
  match e.dest, p with
  | .hbm d, .hbm => d ≤ a && a < d + 2 ^ e.logSize
  | .host d, .host => d ≤ a && a < d + 2 ^ e.logSize
  | .peer k d, .peer j => k = j && d ≤ a && a < d + 2 ^ e.logSize
  | _, _ => false

/-- A place lies in the frame of one of some entries. -/
def framed (es : List DtcEntry) (p : Place) (a : Nat) : Bool := es.any (fun e => e.frames p a)

/-- A store was translated by one of some entries. -/
def Store.through (t : Store) (es : List DtcEntry) : Bool :=
  es.any (fun e => e.covers t.page.pasid (4096 * t.page.page) && e.frames t.place t.addr)

/-- A copy holds bytes that it has read through the frames and not written yet. -/
def CopyGot.through (g : CopyGot) (es : List DtcEntry) : Bool := g.homes.any (fun h => framed es h.1 h.2)

/-- An access through the frames is still under way: an operation, a copy or a staging with bytes to write, a published store, an advance or a fill
(R218). -/
def State.framesBusy (s : State) (es : List DtcEntry) : Bool :=
  s.cores.any (fun k => k.2.ctxs.toList.any (fun (c : Ctx) => c.ops.any (fun o => o.kind.places.any (fun x => framed es x.1 x.2)))) ||
  s.cores.any (fun k => k.2.chans.toList.any (fun l => l.any (fun c => c.got.through es))) ||
  s.dies.any (fun d => d.2.nests.any (fun n => n.copy.any (fun c => c.got.through es))) ||
  s.pubs.any (fun p => p.stores.any (fun t => t.through es)) ||
  s.advances.any (fun a => match a.key with
    | .memory p x => framed es p x
    | _ => false) ||
  s.fills.any (fun f => framed es f.place f.addr)

/-- A store of a context that no other agent sees goes through the frames, or comes before one that does in its line, whose order is that of
their issue (R101, R112). -/
def State.goesThrough (s : State) (es : List DtcEntry) (w : Who) (t : Store) : Bool :=
  (s.ctx w).stores.any (fun u => u.through es && t.id ≤ u.id && lineOf t.place t.addr = lineOf u.place u.addr)

/-- The unpublished stores of a context through the frames go under publication at their widest scope (R218); those to other dies and
packages travel on their flows (R136). -/
def State.flushStores (s : State) (es : List DtcEntry) (w : Who) : State :=
  s.publishPieces w ((s.ctx w).stores.filter (s.goesThrough es w)) ((s.ctx w).stores.filter (fun t => !s.goesThrough es w t))

/-- The same for a context that is saved, which has no publication and nothing on a flow under way (R210): its stores are performed at
once. -/
def State.performPrivate (s : State) (es : List DtcEntry) (w : Who) : State :=
  ((s.ctx w).stores.filter (s.goesThrough es w)).foldl (fun (u : State) t =>
    (((u.sendTo w (u.ctx w).part t.place t.addr t.bytes).performStore w t .fabric).1).modCtx w (fun c => { c with
      stores := c.stores.filter (fun x => x != t), phaseBytes := t.phaseBytes ++ c.phaseBytes })) s

/-- The contexts of every core. -/
def State.whos (s : State) : List Who := s.cores.flatMap (fun k => [0, 1, 2, 3].map (fun x => (⟨k.1, x⟩ : Who)))

/-- The stores of a pre-empted partition are performed too: its saved contexts stand in for the ones on their cores. -/
def State.flushSaved (s : State) (es : List DtcEntry) (p : Nat) (v : Saved) : State :=
  let t := v.cores.foldl (fun (u : State) c => u.setCore c.1 c.2) s
  let ws := v.cores.flatMap (fun c => [0, 1, 2, 3].map (fun x => (⟨c.1, x⟩ : Who)))
  let t := ws.foldl (fun (u : State) w => u.performPrivate es w) t
  let t := { t with hist := t.hist.map (fun (x : Write) => match x.owner with
    | some w => if v.cores.any (fun c => c.1 = w.core) && !(s.hist.any (fun y => y.id = x.id)) then { x with owner := none } else x
    | none => x) }
  let v' : Saved := { v with cores := v.cores.map (fun c => (c.1, t.core c.1)) }
  { t with cores := s.cores, saved := t.saved.set p v' }

/-- Every unpublished store through the frames is performed or under publication. -/
def State.flush (s : State) (es : List DtcEntry) : State :=
  let s := s.whos.foldl (fun (u : State) w => u.flushStores es w) s
  s.saved.foldl (fun (u : State) v => u.flushSaved es v.1 v.2) s

/-- Remove entries from a die's cache, remember them, and overtake the requests under way. -/
def State.invalidateDie (s : State) (die : Nat) (sel : DtcEntry → Bool) (stale : AtsReq → Bool) : State :=
  s.modDie die (fun d => { d with
    dtc := d.dtc.filter (fun e => !sel e)
    invalidations := d.invalidations ++ [d.dtc.filter sel]
    ats := d.ats.map (fun (r : AtsReq) => if stale r then { r with stale := true } else r) })

/-- ATS_INVALIDATE: every matching entry of every die goes at once (R218). -/
def execAtsInvalidate (part va logSize : Nat) (s : State) : Out :=
  let size := 2 ^ logSize
  .next ([0, 1, 2, 3].foldl (fun (u : State) die => u.invalidateDie die (fun e => e.meets part va size)
    (fun r => r.miss.pasid = part && overlaps (4096 * r.miss.page) 4096 va size)) s)

/-- The entries that the i-th invalidation under way removed. -/
def State.removedBy (s : State) (i : Nat) : List DtcEntry := [0, 1, 2, 3].flatMap (fun d => ((s.die d).invalidations[i]?).getD [])

/-- INVALIDATION_COMPLETION: the i-th invalidation under way is answered once every access through its entries has been
performed; the unpublished stores through them are performed first, and where they are still under way the answer waits (R218). -/
def execInvalidationCompletion (i : Nat) (s : State) : Out :=
  let t := s.flush (s.removedBy i)
  if t.framesBusy (s.removedBy i) then .next t
  else
    .next ([0, 1, 2, 3].foldl (fun (u : State) die => u.modDie die (fun d => { d with invalidations := d.invalidations.eraseIdx i })) t)

end Sys2Proof.Machine
end

