-- ==== Sys2Proof/Machine/Control.lean ====
section
/-! DEFINITION. Branches, END, NOP, WAITN, the trap syllables, control registers and the LATCH window (R37, R43 to R52, R203,
R205 to R208, R300, R301, R305 to R307, R319, R323, R332, R336, R363, R364). -/

namespace Sys2Proof.Machine

/-! ### Branches -/

/-- The bundle's branch is taken to an address; two bubbles follow (R27). -/
def State.branchTo (s : State) (a : Word) : State := { s with issue := { s.issue with target := some a } }

/-- BRA (R301). -/
def execBra (gd : Guard) (o : BitVec 20) (s : State) : Out :=
  s.guarded gd fun s => .next (s.branchTo (s.issue.base + 4 * o.signExtend 64))

/-- CALL (R301): g31 takes the address of the next sequential bundle, PUB. -/
def execCall (gd : Guard) (o : BitVec 20) (s : State) : Out :=
  s.guarded gd fun s =>
    .next ((s.pushG 1 31 (s.issue.base + 4 * BitVec.ofNat 64 s.issue.count) .pub).branchTo
      (s.issue.base + 4 * o.signExtend 64))

/-- A branch to a register's address (R282, R323). -/
def State.branchReg (s : State) (gd : Guard) (a : BitVec 5) : Out :=
  s.guarded gd fun s => if (s.gw a).toNat % 4 != 0 then s.raise 0x07 (s.gw a) else .next (s.branchTo (s.gw a))

/-- JR (R323). -/
def execJr (gd : Guard) (a : BitVec 5) (s : State) : Out := s.branchReg gd a

/-- RET (R323): to g31. -/
def execRet (gd : Guard) (s : State) : Out := s.branchReg gd 31

/-- LOOP (R332). -/
def execLoop (gd : Guard) (d : BitVec 5) (i : BitVec 15) (x : Option (BitVec 20)) (s : State) : Out :=
  s.guarded gd fun s =>
    let c := s.gw d - 1
    let t := s.pushG 1 d c (s.gsens d)
    .next (if c = 0 then t else t.branchTo (s.issue.base + 4 * imm15 i x))

/-- END (R319): in task mode the context waits to retire; in supervisor mode the task is terminated after the bundle's
issue cycle. Both are done when the bundle has issued. -/
def execEndTask (gd : Guard) (s : State) : Out :=
  s.guarded gd fun s => .next { s with issue := { s.issue with ended := true } }

/-- NOP (R336). -/
def execNop (gd : Guard) (s : State) : Out := s.guarded gd fun s => .next s

/-! ### WAITN (R37) -/

/-- The limits of a WAITN; 15 places none. -/
def waitnLimits (a b c d e : BitVec 4) : List (Cls × Nat) :=
  [(Cls.gl, a.toNat), (.gs, b.toNat), (.cp, c.toNat), (.mt, d.toNat), (.sf, e.toNat)].filter (fun l => l.2 != 15)

/-- Every count is at or below its limit. -/
def Ctx.withinLimits (c : Ctx) (l : List (Cls × Nat)) : Bool := l.all (fun x => c.counts.get x.1 ≤ x.2)

/-- WAITN (R37, R395). -/
def execWaitn (gd : Guard) (a b c d e : BitVec 4) (s : State) : Out :=
  s.guarded gd fun s =>
    let l := waitnLimits a b c d e
    if s.cur.withinLimits l then .next s else s.blockOn (.waitn l)

/-! ### Trap syllables -/

/-- BKPT (R300): the code and the number of syllables of the bundle. -/
def execBkpt (gd : Guard) (k : BitVec 10) (x : Option (BitVec 20)) (s : State) : Out :=
  s.guarded gd fun s => s.raise 0x15 (code10 k x ||| BitVec.ofNat 64 s.issue.count <<< 32)

/-- TRAP (R363). -/
def execTrap (gd : Guard) (a k : BitVec 5) (_x : Option (BitVec 20)) (s : State) : Out :=
  s.guarded gd fun s => s.raise (0x20 + k.setWidth 8) (s.gw a)

/-- TRETN (R203, R364): it waits, as a bubble, while the handler's latch file holds a result. -/
def execTretn (gd : Guard) (s : State) : Out :=
  s.guarded gd fun s => s.privileged fun s =>
    if s.cur.latch.isEmpty then .next (s.modCur Ctx.trapReturn)
    else .next { s with issue := { s.issue with verdict := .waits } }

/-! ### The LATCH window (R205 to R208) -/

/-- The entry that LATCH1 and LATCH2 reach. -/
def Ctx.latchEntry (c : Ctx) : Option LatchEntry := (c.held.getD [])[c.latchSelE.toNat]?

/-- File code and register number of a destination (R207). -/
def regFile : Reg → Nat × Nat
  | .g r => (0, r.toNat)
  | .v r => (1, r.toNat)
  | .p r => (2, r.toNat)
  | .m r => (3, r.toNat)
  | .q r => (4, r.toNat)

/-- LATCH0 (R206). -/
def Ctx.latch0 (c : Ctx) : Word :=
  BitVec.ofNat 64 (c.latchSelE.toNat + 256 * c.latchSelW.toNat + 65536 * (c.held.getD []).length)

/-- The descriptor of an entry in LATCH1 form (R207). -/
def LatchEntry.descriptor (e : LatchEntry) : Word :=
  let (f, r) := regFile e.dest
  BitVec.ofNat 64 (r * 2 ^ 6 + f * 2 ^ 11 + e.fmt.toNat * 2 ^ 14 + e.sens.code * 2 ^ 18 + e.flags.toNat * 2 ^ 20 +
    e.rem * 2 ^ 27 + e.live.toNat * 2 ^ 63)

/-- Word w of a latched value. -/
def LatchEntry.word (e : LatchEntry) (w : Nat) : Word := e.val.extractLsb' (64 * w) 64

/-- Number of 64-bit words of a destination's value (R208). -/
def regWords : Reg → Nat
  | .g _ => 1
  | .v _ => 32
  | .p _ => 1
  | .m _ => 4
  | .q _ => 4

/-- Change the selected entry; with none selected nothing changes. -/
def Ctx.modLatch (c : Ctx) (f : LatchEntry → LatchEntry) : Ctx :=
  { c with held := c.held.map (fun h => h.modify c.latchSelE.toNat f) }

/-- The effect of a write of LATCH1 (R207): FMT is writable for v and q. R41 lets a q register hold raw or bf16 alone and gives no effect of
another code: it is stored as written (DESIGN CHOICE, log 65). -/
def Ctx.setLatch1 (c : Ctx) (v : Word) : Ctx :=
  c.modLatch (fun e =>
    let tagged := match e.dest with
      | .v _ => true
      | .q _ => true
      | _ => false
    { e with
      live := e.live && v.getLsbD 63
      flags := v.extractLsb' 20 7
      sens := if v.extractLsb' 18 2 = 3#2 then e.sens else Sens.ofCode (bitsOf v.toNat 18 2)
      fmt := if tagged then v.extractLsb' 14 4 else e.fmt })

/-- The effect of a write of LATCH2 (R208). -/
def Ctx.setLatch2 (c : Ctx) (v : Word) : Ctx :=
  let w := c.latchSelW.toNat
  c.modLatch (fun e =>
    if regWords e.dest ≤ w then e
    else
      let x : VWord := match e.dest with
        | .p _ => v.setWidth 2048 &&& 1
        | _ => v.setWidth 2048
      let hole : VWord := (BitVec.allOnes 64).setWidth 2048 <<< (64 * w)
      { e with val := (e.val &&& ~~~hole) ||| (x <<< (64 * w)) })

/-- LATCH1_WRITE: the effect of a supervisor CSET of LATCH1 (R207, R307). -/
def execLatch1Write (v : Word) (s : State) : Out := .next (s.modCur (fun c => c.setLatch1 v))

/-- LATCH2_WRITE: the effect of a supervisor CSET of LATCH2 (R208, R307). -/
def execLatch2Write (v : Word) (s : State) : Out := .next (s.modCur (fun c => c.setLatch2 v))

/-! ### Control registers (R43 to R52) -/

/-- Access codes of R44. -/
inductive CtlAccess where
  | ro | rw | prv
deriving DecidableEq, Repr

/-- The access of a control number in a mode (R44). -/
def ctlAccess (n : Nat) (priv : Bool) : CtlAccess :=
  if n = 0x10 || n = 0x11 then .rw
  else if n ≤ 2 || n = 0x0B || n = 0x0C || n = 0x0D || n = 0x18 || n = 0x24 || (0x80 ≤ n && n ≤ 0x83) then .ro
  else if n = 0x22 then (if priv then .ro else .prv)
  else if n = 0x08 || n = 0x09 || n = 0x0A || n = 0x21 || n = 0x23 then (if priv then .rw else .ro)
  else if priv then .rw else .prv

/-- Bytes that the commands queued on a channel have yet to write (R166). -/
def Core.pendingBytes (k : Core) (ch : Nat) : Nat :=
  (k.chan ch).foldl (fun acc c => acc + (c.shape.total - c.done)) 0

/-- SEALST (R51). -/
def Ctx.sealst (c : Ctx) : Word :=
  BitVec.ofNat 64 (c.sealState.toNat + 4 * c.sealLast.toNat + 256 * c.sealCause.toNat + 65536 * c.sealBytes.toNat)

/-- MODE (R47). -/
def Ctx.mode (c : Ctx) : Word := BitVec.ofNat 64 (c.priv.toNat + 2 * c.ppriv.toNat)

/-- The value of a control register (R44, R306), with the sensitivity a CGET gives it. -/
def State.ctlRead (s : State) (n : Nat) : Word × Sens :=
  let c := s.cur
  let k := s.core s.issue.core
  match n with
  | 0x000 => (BitVec.ofNat 64 (s.issue.ctx % 4), .pub)
  | 0x001 => (BitVec.ofNat 64 s.issue.core, .pub)
  | 0x002 => (s.feat, .pub)
  | 0x008 => (c.taskId, .pub)
  | 0x009 => (c.nestId.setWidth 64, .pub)
  | 0x00A => (c.budget, .pub)
  | 0x00B => (c.acyc, .pub)
  | 0x00C => (c.frz, .pub)
  | 0x00D => (c.bankStall, .pub)
  | 0x010 => (c.flags.setWidth 64, .pub)
  | 0x011 => (c.frm.setWidth 64, .pub)
  | 0x018 => (c.mode, .pub)
  | 0x019 => (c.tvec, .pub)
  | 0x01A => (c.trapPc, .pub)
  | 0x01B => (c.trapCause.setWidth 64, .pub)
  | 0x01C => (c.trapVal, .pub)
  | 0x020 => (c.hashKey, .pub)
  | 0x021 => (BitVec.ofNat 64 (c.kslot.toNat + (s.key c.kslot.toNat).ver.toNat * 2 ^ 32), .pub)
  | 0x022 => (k.pwrlim.setWidth 64, .pub)
  | 0x023 => (c.age.setWidth 64, .pub)
  | 0x024 => (c.sealst, .pub)
  | 0x040 => (c.latch0, .pub)
  | 0x041 => ((c.latchEntry.map LatchEntry.descriptor).getD 0, .pub)
  | 0x042 => ((c.latchEntry.map (fun e => e.word c.latchSelW.toNat)).getD 0, (c.latchEntry.map LatchEntry.sens).getD .pub)
  | 0x080 => (BitVec.ofNat 64 (k.pendingBytes 0), .pub)
  | 0x081 => (BitVec.ofNat 64 (k.pendingBytes 1), .pub)
  | 0x082 => (BitVec.ofNat 64 (k.pendingBytes 2), .pub)
  | 0x083 => (BitVec.ofNat 64 (k.pendingBytes 3), .pub)
  | _ => (0, .pub)

/-- CGET (R305, R306). -/
def execCget (gd : Guard) (c : BitVec 10) (g : BitVec 5) (s : State) : Out :=
  s.guarded gd fun s =>
    if ctlAccess c.toNat s.cur.priv = .prv then s.raise 0x03 s.sylWord
    else .next (s.pushG 1 g (s.ctlRead c.toNat).1 (s.ctlRead c.toNat).2)

/-- A key slot is granted to a partition: it is a tenant slot of it (R49, R221). -/
def State.tenantSlot (s : State) (part slot : Nat) : Bool :=
  let k := s.key slot
  k.ty = 2 && k.part.toNat = part

/-- The effect of a CSET of KSLOT (R49): RO in task mode; a slot not granted to the partition traps. -/
def State.setKslot (s : State) (v : Word) : Out :=
  if !s.cur.priv then .next s
  else if s.tenantSlot s.cur.part (bitsOf v.toNat 0 13) then .next (s.modCur (fun c => { c with kslot := v.setWidth 13 }))
  else s.raise 0x08 v

/-- KSLOT_WRITE: the effect of a CSET of KSLOT (R49, R307). -/
def execKslotWrite (v : Word) (s : State) : Out := s.setKslot v

/-- Write a control register of the context that its mode may write (R307). -/
def Ctx.ctlWrite (c : Ctx) (n : Nat) (v : Word) : Ctx :=
  match n with
  | 0x008 => { c with taskId := v }
  | 0x009 => { c with nestId := v.setWidth 16 }
  | 0x00A => { c with budget := v }
  | 0x010 => { c with flags := v.setWidth 7 }
  | 0x011 => { c with frm := v.setWidth 3 }
  | 0x019 => { c with tvec := v &&& ~~~3#64 }
  | 0x01A => { c with trapPc := v }
  | 0x01B => { c with trapCause := v.setWidth 11 }
  | 0x01C => { c with trapVal := v }
  | 0x020 => { c with hashKey := v }
  | 0x023 => { c with age := v.setWidth 32 }
  | 0x040 => { c with latchSelE := v.setWidth 6, latchSelW := v.extractLsb' 8 5 }
  | 0x041 => c.setLatch1 v
  | 0x042 => c.setLatch2 v
  | _ => c

/-- CSET (R305, R307): from a g register, or from the LIMM payload with PUB. -/
def execCset (gd : Guard) (c : BitVec 10) (g : BitVec 5) (x : Option (BitVec 20)) (s : State) : Out :=
  s.guarded gd fun s =>
    let n := c.toNat
    let v : Word := match x with
      | some l => l.setWidth 64
      | none => s.gw g
    let sens : Sens := if x.isSome then .pub else s.gsens g
    match ctlAccess n s.cur.priv with
    | .prv => s.raise 0x03 s.sylWord
    | a =>
      if !s.cur.priv && sens != .pub then s.raise 0x05 (g.setWidth 64)
      else if a = .ro then .next s
      else if n = 0x21 then s.setKslot v
      else .next (s.modCur (fun c => c.ctlWrite n v))

/-! ### Landing -/

/-- RESULT_LANDS: the fixed-latency results whose active cycles have passed land (R18, R21). -/
def execResultLands (core : Nat) (ctx : BitVec 2) (s : State) : Out := .next (s.modCtx ⟨core, ctx.toNat⟩ Ctx.landDue)

end Sys2Proof.Machine
end

