-- ==== Sys2Proof/Decode.lean ====
section
/-! DEFINITION. Decoding syllables and bundles (R275 to R284), total on any words and rejecting by name, and the
encoder written from the same formats. -/

namespace Sys2Proof

/-- The field of `n` bits from bit `lo` of a word. -/
def fld (w lo n : Nat) : Nat := w / 2 ^ lo % 2 ^ n

/-- The same field as a bit vector. -/
def bits (w lo n : Nat) : BitVec n := BitVec.ofNat n (w / 2 ^ lo)

/-- One bit of a word. -/
def flag (w lo : Nat) : Bool := fld w lo 1 = 1

/-- Why a word is no instruction (R284). -/
inductive DecodeError where
  /-- a reserved OP -/
  | reservedOp
  /-- PG = 0 with PN = 1, or a LIMM with PG or PN not zero -/
  | badGuard
  /-- a non-zero unused field, or a function code that is not an instruction -/
  | reservedField
deriving DecidableEq, Repr

/-- The guard bits of a syllable (R275). -/
def guardOf (w : Nat) : Guard := ⟨bits w 28 3, flag w 27⟩

/-- The guard bits in place. -/
def Guard.bits (g : Guard) : Nat := g.pg.toNat * 2 ^ 28 + g.pn.toNat * 2 ^ 27

/-- The instruction whose OP and fixed bits a word has (R276, R283); bit 31, the stop bit, delimits bundles and is
not looked at. -/
def parse (w : Nat) : Option Instr :=
  let g := guardOf w
  match fld w 20 7 with
  | 0x00 => if fld w 0 5 = 0 then some (.add g (bits w 15 5) (bits w 10 5) (bits w 5 5)) else none
  | 0x01 => if fld w 0 5 = 0 then some (.sub g (bits w 15 5) (bits w 10 5) (bits w 5 5)) else none
  | 0x02 => if fld w 0 5 = 0 then some (.and g (bits w 15 5) (bits w 10 5) (bits w 5 5)) else none
  | 0x03 => if fld w 0 5 = 0 then some (.or g (bits w 15 5) (bits w 10 5) (bits w 5 5)) else none
  | 0x04 => if fld w 0 5 = 0 then some (.xor g (bits w 15 5) (bits w 10 5) (bits w 5 5)) else none
  | 0x05 => if fld w 0 5 = 0 then some (.andn g (bits w 15 5) (bits w 10 5) (bits w 5 5)) else none
  | 0x06 => if fld w 0 5 = 0 then some (.shl g (bits w 15 5) (bits w 10 5) (bits w 5 5)) else none
  | 0x07 => if fld w 0 5 = 0 then some (.shr g (bits w 15 5) (bits w 10 5) (bits w 5 5)) else none
  | 0x08 => if fld w 0 5 = 0 then some (.shra g (bits w 15 5) (bits w 10 5) (bits w 5 5)) else none
  | 0x09 => if fld w 0 5 = 0 then some (.mul g (bits w 15 5) (bits w 10 5) (bits w 5 5)) else none
  | 0x0A => if fld w 1 4 = 0 then some (.mulh g (bits w 15 5) (bits w 10 5) (bits w 5 5) (flag w 0)) else none
  | 0x0B => if fld w 1 4 = 0 then some (.div g (bits w 15 5) (bits w 10 5) (bits w 5 5) (flag w 0)) else none
  | 0x0C => if fld w 1 4 = 0 then some (.rem g (bits w 15 5) (bits w 10 5) (bits w 5 5) (flag w 0)) else none
  | 0x0D => if fld w 1 4 = 0 then some (.min g (bits w 15 5) (bits w 10 5) (bits w 5 5) (flag w 0)) else none
  | 0x0E => if fld w 1 4 = 0 then some (.max g (bits w 15 5) (bits w 10 5) (bits w 5 5) (flag w 0)) else none
  | 0x0F => if fld w 3 2 = 0 then some (.sel g (bits w 15 5) (bits w 10 5) (bits w 5 5) (bits w 0 3)) else none
  | 0x10 => some (.addi g (bits w 15 5) (bits w 10 5) (bits w 0 10) none)
  | 0x11 => some (.andi g (bits w 15 5) (bits w 10 5) (bits w 0 10) none)
  | 0x12 => some (.ori g (bits w 15 5) (bits w 10 5) (bits w 0 10) none)
  | 0x13 => if fld w 6 4 = 0 then some (.shli g (bits w 15 5) (bits w 10 5) (bits w 0 6) none) else none
  | 0x14 => if fld w 7 3 = 0 then some (.shri g (bits w 15 5) (bits w 10 5) (flag w 6) (bits w 0 6) none) else none
  | 0x15 => some (.li g (bits w 15 5) (bits w 0 15) none)
  | 0x16 => some (.lih g (bits w 15 5) (bits w 0 15) none)
  | 0x17 => if fld w 0 10 = 0 then some (.clz g (bits w 15 5) (bits w 10 5)) else none
  | 0x18 => if fld w 0 10 = 0 then some (.popc g (bits w 15 5) (bits w 10 5)) else none
  | 0x19 => some (.cmp g (bits w 17 3) (bits w 12 5) (bits w 7 5) (bits w 3 4) (bits w 0 3))
  | 0x1A => some (.cmpi g (bits w 17 3) (bits w 12 5) (bits w 7 5) (bits w 3 4) (bits w 0 3))
  | 0x1B => if fld w 0 3 = 0 ∧ fld w 10 2 = 0 ∧ fld w 15 2 = 0 then some (.plog g (bits w 17 3) (bits w 12 3) (bits w 7 3) (bits w 3 4)) else none
  | 0x20 => some (.bra g (bits w 0 20))
  | 0x21 => some (.call g (bits w 0 20))
  | 0x22 => if fld w 0 10 = 0 ∧ fld w 15 5 = 0 then some (.jr g (bits w 10 5)) else none
  | 0x23 => if fld w 0 20 = 0 then some (.ret g) else none
  | 0x24 => some (.loop g (bits w 15 5) (bits w 0 15) none)
  | 0x25 => if fld w 0 20 = 0 then some (.endTask g) else none
  | 0x26 => if fld w 0 20 = 0 then some (.nop g) else none
  | 0x27 => some (.waitn g (bits w 16 4) (bits w 12 4) (bits w 8 4) (bits w 4 4) (bits w 0 4))
  | 0x28 => if fld w 0 1 = 0 ∧ fld w 6 4 = 0 then some (.cwait g (bits w 15 5) (bits w 10 5) (bits w 3 3) (bits w 1 2)) else none
  | 0x29 => if fld w 0 1 = 0 ∧ fld w 6 14 = 0 then some (.fence g (bits w 3 3) (bits w 1 2)) else none
  | 0x2A => if fld w 5 5 = 0 ∧ fld w 15 5 = 0 then some (.trap g (bits w 10 5) (bits w 0 5) none) else none
  | 0x2B => if fld w 10 10 = 0 then some (.bkpt g (bits w 0 10) none) else none
  | 0x30 => some (.ld g (bits w 15 5) (bits w 10 5) (bits w 7 3) (bits w 5 2) (bits w 0 5))
  | 0x31 => some (.st g (bits w 15 5) (bits w 10 5) (bits w 7 3) (bits w 5 2) (bits w 0 5))
  | 0x32 => some (.vld g (bits w 15 5) (bits w 10 5) (bits w 7 3) (bits w 3 4) (flag w 2) (bits w 0 2))
  | 0x33 => some (.vst g (bits w 15 5) (bits w 10 5) (bits w 7 3) (bits w 3 4) (flag w 2) (bits w 0 2))
  | 0x34 => if fld w 0 3 = 0 then some (.vlds g (bits w 15 5) (bits w 10 5) (bits w 7 3) (bits w 3 4)) else none
  | 0x35 => if fld w 0 3 = 0 then some (.vgth g (bits w 15 5) (bits w 10 5) (bits w 7 3) (bits w 3 4)) else none
  | 0x36 => if fld w 0 3 = 0 then some (.vsct g (bits w 15 5) (bits w 10 5) (bits w 7 3) (bits w 3 4)) else none
  | 0x37 => if fld w 3 2 = 0 then some (.probe g (bits w 15 5) (bits w 10 5) (bits w 5 5) (bits w 0 3)) else none
  | 0x38 => some (.amo g (bits w 15 5) (bits w 10 5) (bits w 6 4) (bits w 3 3) (bits w 1 2) (flag w 0))
  | 0x39 => if fld w 6 1 = 0 then some (.cas g (bits w 15 5) (bits w 10 5) (bits w 7 3) (bits w 3 3) (bits w 1 2) (flag w 0)) else none
  | 0x3A => some (.casl g (bits w 15 5) (bits w 10 5) (bits w 7 3) (flag w 6) (bits w 3 3) (bits w 1 2) (flag w 0))
  | 0x3B => some (.red g (bits w 15 5) (bits w 10 5) (bits w 6 4) (bits w 3 3) (bits w 1 2) (flag w 0))
  | 0x3C => if fld w 0 1 = 0 ∧ fld w 6 4 = 0 then some (.cadv g (bits w 15 5) (bits w 10 5) (bits w 3 3) (bits w 1 2)) else none
  | 0x3D => if fld w 0 1 = 0 ∧ fld w 6 4 = 0 then some (.cread g (bits w 15 5) (bits w 10 5) (bits w 3 3) (bits w 1 2)) else none
  | 0x40 => some (.vadd g (bits w 16 4) (bits w 11 5) (bits w 6 5) (bits w 1 5) (flag w 0))
  | 0x41 => some (.vsub g (bits w 16 4) (bits w 11 5) (bits w 6 5) (bits w 1 5) (flag w 0))
  | 0x42 => some (.vmul g (bits w 16 4) (bits w 11 5) (bits w 6 5) (bits w 1 5) (flag w 0))
  | 0x43 => some (.vmulh g (bits w 16 4) (bits w 11 5) (bits w 6 5) (bits w 1 5) (flag w 0))
  | 0x44 => some (.vmad g (bits w 16 4) (bits w 11 5) (bits w 6 5) (bits w 1 5) (flag w 0))
  | 0x45 => some (.vmin g (bits w 16 4) (bits w 11 5) (bits w 6 5) (bits w 1 5) (flag w 0))
  | 0x46 => some (.vmax g (bits w 16 4) (bits w 11 5) (bits w 6 5) (bits w 1 5) (flag w 0))
  | 0x47 => if fld w 1 5 = 0 then some (.vabs g (bits w 16 4) (bits w 11 5) (bits w 6 5) (flag w 0)) else none
  | 0x48 => some (.vand g (bits w 16 4) (bits w 11 5) (bits w 6 5) (bits w 1 5) (flag w 0))
  | 0x49 => some (.vor g (bits w 16 4) (bits w 11 5) (bits w 6 5) (bits w 1 5) (flag w 0))
  | 0x4A => some (.vxor g (bits w 16 4) (bits w 11 5) (bits w 6 5) (bits w 1 5) (flag w 0))
  | 0x4B => some (.vshl g (bits w 16 4) (bits w 11 5) (bits w 6 5) (bits w 1 5) (flag w 0))
  | 0x4C => some (.vshr g (bits w 16 4) (bits w 11 5) (bits w 6 5) (bits w 1 5) (flag w 0))
  | 0x4D => some (.vrshr g (bits w 16 4) (bits w 11 5) (bits w 6 5) (bits w 1 5) (flag w 0))
  | 0x4E => if fld w 14 2 = 0 then some (.vcmp g (bits w 16 4) (bits w 11 3) (bits w 6 5) (bits w 1 5) (flag w 0)) else none
  | 0x4F => if fld w 0 1 = 0 ∧ fld w 19 1 = 0 then some (.vsel g (bits w 16 3) (bits w 11 5) (bits w 6 5) (bits w 1 5)) else none
  | 0x50 => some (.vfadd g (bits w 16 4) (bits w 11 5) (bits w 6 5) (bits w 1 5) (flag w 0))
  | 0x51 => some (.vfsub g (bits w 16 4) (bits w 11 5) (bits w 6 5) (bits w 1 5) (flag w 0))
  | 0x52 => some (.vfmul g (bits w 16 4) (bits w 11 5) (bits w 6 5) (bits w 1 5) (flag w 0))
  | 0x53 => some (.vfma g (bits w 16 4) (bits w 11 5) (bits w 6 5) (bits w 1 5) (flag w 0))
  | 0x54 => some (.vfmin g (bits w 16 4) (bits w 11 5) (bits w 6 5) (bits w 1 5) (flag w 0))
  | 0x55 => some (.vfmax g (bits w 16 4) (bits w 11 5) (bits w 6 5) (bits w 1 5) (flag w 0))
  | 0x56 => if fld w 14 2 = 0 then some (.vfcmp g (bits w 16 4) (bits w 11 3) (bits w 6 5) (bits w 1 5) (flag w 0)) else none
  | 0x57 => if fld w 5 1 = 0 then some (.vcvt g (bits w 16 4) (bits w 11 5) (bits w 6 5) (bits w 1 4) (flag w 0)) else none
  | 0x58 => if fld w 0 6 = 0 then some (.vcast g (bits w 16 4) (bits w 11 5) (bits w 6 5)) else none
  | 0x59 => if fld w 5 1 = 0 ∧ fld w 16 4 = 8 then some (.vcbx g (bits w 11 5) (bits w 6 5) (bits w 3 2) (bits w 1 2) (flag w 0)) else none
  | 0x5A => if fld w 0 1 = 0 ∧ fld w 4 2 = 0 ∧ fld w 16 4 = 15 then some (.vpk5 g (bits w 11 5) (bits w 6 5) (bits w 1 3)) else none
  | 0x5B => if fld w 0 1 = 0 ∧ fld w 4 2 = 0 ∧ fld w 16 4 = 1 then some (.vupk5 g (bits w 11 5) (bits w 6 5) (bits w 1 3)) else none
  | 0x5C => some (.vred g (bits w 16 4) (bits w 11 5) (bits w 6 5) (bits w 1 5) (flag w 0))
  | 0x5D => if fld w 1 5 = 0 then some (.vscan g (bits w 16 4) (bits w 11 5) (bits w 6 5) (flag w 0)) else none
  | 0x5E => if fld w 16 4 = 5 then some (.vdot g (bits w 11 5) (bits w 6 5) (bits w 1 5) (flag w 0)) else none
  | 0x5F => if fld w 16 4 = 10 then some (.vfdot g (bits w 11 5) (bits w 6 5) (bits w 1 5) (flag w 0)) else none
  | 0x60 => if fld w 0 15 = 0 then some (.wld g (bits w 15 5)) else none
  | 0x61 => some (.mms g (bits w 15 5) (bits w 10 5) (bits w 5 5) (bits w 0 5))
  | 0x62 => if fld w 0 5 = 0 then some (.mdrn g (bits w 15 5) (bits w 10 5) (bits w 5 5)) else none
  | 0x63 => if fld w 0 15 = 0 then some (.mscl g (bits w 15 5)) else none
  | 0x64 => if fld w 0 15 = 0 then some (.mcfg g (bits w 15 5)) else none
  | 0x65 => some (.sfx g (bits w 15 5) (bits w 10 5) (bits w 5 5) (bits w 0 5))
  | 0x66 => if fld w 0 15 = 0 then some (.sfcfg g (bits w 15 5)) else none
  | 0x67 => if fld w 3 2 = 0 then some (.cpy g (bits w 15 5) (bits w 10 5) (bits w 5 5) (flag w 2) (bits w 0 2)) else none
  | 0x68 => if fld w 3 2 = 0 then some (.cpyx g (bits w 15 5) (bits w 10 5) (bits w 5 5) (flag w 2) (bits w 0 2)) else none
  | 0x69 => if fld w 3 2 = 0 then some (.cpyg g (bits w 15 5) (bits w 10 5) (bits w 5 5) (flag w 2) (bits w 0 2)) else none
  | 0x6A => some (.coll g (bits w 15 5) (bits w 10 5) (bits w 5 5) (bits w 2 3) (bits w 0 2))
  | 0x6B => if fld w 0 10 = 0 then some (.spawn g (bits w 15 5) (bits w 10 5)) else none
  | 0x6C => if fld w 0 5 = 0 ∧ fld w 10 5 = 0 then some (.sealOpen g (bits w 15 5) (bits w 5 5)) else if fld w 0 2 = 1 ∧ fld w 4 1 = 0 then some (.absorb g (bits w 15 5) (bits w 10 5) (bits w 5 5) (bits w 2 2)) else if fld w 0 20 = 2 then some (.sealClose g) else none
  | 0x6D => if fld w 0 5 = 0 then some (.scrub g (bits w 15 5) (bits w 10 5) (bits w 5 5)) else none
  | 0x6E => if fld w 0 5 = 0 then some (.krot g (bits w 15 5) (bits w 10 5) (bits w 5 5)) else none
  | 0x6F => if fld w 0 5 = 0 ∧ fld w 10 5 = 0 then some (.ckpt g (bits w 15 5) (bits w 5 5)) else none
  | 0x70 => some (.vclamp g (bits w 16 4) (bits w 11 5) (bits w 6 5) (bits w 1 5) (flag w 0))
  | 0x71 => if fld w 1 5 = 0 then some (.vbcast g (bits w 16 4) (bits w 11 5) (bits w 6 5) (flag w 0)) else none
  | 0x72 => if fld w 0 1 = 0 then some (.vext g (bits w 16 4) (bits w 11 5) (bits w 6 5) (bits w 1 5)) else none
  | 0x73 => if fld w 0 1 = 0 then some (.vins g (bits w 16 4) (bits w 11 5) (bits w 6 5) (bits w 1 5)) else none
  | 0x74 => some (.vperm g (bits w 16 4) (bits w 11 5) (bits w 6 5) (bits w 1 5) (flag w 0))
  | 0x75 => some (.vslide g (bits w 16 4) (bits w 11 5) (bits w 6 5) (bits w 1 5) (flag w 0))
  | 0x78 => if fld w 0 5 = 0 then some (.cget g (bits w 10 10) (bits w 5 5)) else none
  | 0x79 => if fld w 0 5 = 0 then some (.cset g (bits w 10 10) (bits w 5 5) none) else none
  | 0x7A => if fld w 0 20 = 0 then some (.tretn g) else none
  | 0x7B => if fld w 0 5 = 0 ∧ fld w 10 10 = 0 then some (.decl g (bits w 5 5)) else none
  | 0x7C => if fld w 0 5 = 0 ∧ fld w 10 10 = 0 then some (.rstr g (bits w 5 5)) else none
  | 0x7F => if fld w 27 4 = 0 then some (.limm (bits w 0 20)) else none
  | _ => none

/-- The reserved OP codes (R284). -/
def reservedOp (op : Nat) : Bool :=
  (0x1C ≤ op && op ≤ 0x1F) || (0x2C ≤ op && op ≤ 0x2F) || op = 0x3E || op = 0x3F || op = 0x76 || op = 0x77 ||
  op = 0x7D || op = 0x7E

/-- Decode one syllable, or say by name why it is none. -/
def decode (w : Nat) : Except DecodeError Instr :=
  if reservedOp (fld w 20 7) then .error .reservedOp
  else if fld w 20 7 = 0x7F then
    (match parse w with
    | some i => .ok i
    | none => .error .badGuard)
  else if !(guardOf w).ok then .error .badGuard
  else match parse w with
    | some i => .ok i
    | none => .error .reservedField

/-- The LIMM payload of a syllable, where one follows it. -/
def Instr.payload : Instr → Option (BitVec 20)
  | .addi _ _ _ _ x | .andi _ _ _ _ x | .ori _ _ _ _ x | .shli _ _ _ _ x | .shri _ _ _ _ _ x | .trap _ _ _ x
  | .bkpt _ _ x | .li _ _ _ x | .lih _ _ _ x | .loop _ _ _ x | .cset _ _ _ x => x
  | _ => none

/-- The syllable extended by the LIMM that follows it (R279). -/
def Instr.extend : Instr → BitVec 20 → Instr
  | .addi g d a i _, l => .addi g d a i (some l)
  | .andi g d a i _, l => .andi g d a i (some l)
  | .ori g d a i _, l => .ori g d a i (some l)
  | .shli g d a h _, l => .shli g d a h (some l)
  | .shri g d a r h _, l => .shri g d a r h (some l)
  | .trap g a k _, l => .trap g a k (some l)
  | .bkpt g k _, l => .bkpt g k (some l)
  | .li g d i _, l => .li g d i (some l)
  | .lih g d i _, l => .lih g d i (some l)
  | .loop g d i _, l => .loop g d i (some l)
  | .cset g c r _, l => .cset g c r (some l)
  | i, _ => i

/-- The word of an instruction with its stop bit clear (R275 to R278); 0 for the events, which have no words. -/
def encode : Instr → Nat
  | .add gd d a b => 0x0 + gd.bits + d.toNat * 32768 + a.toNat * 1024 + b.toNat * 32
  | .and gd d a b => 0x200000 + gd.bits + d.toNat * 32768 + a.toNat * 1024 + b.toNat * 32
  | .andn gd d a b => 0x500000 + gd.bits + d.toNat * 32768 + a.toNat * 1024 + b.toNat * 32
  | .clz gd d a => 0x1700000 + gd.bits + d.toNat * 32768 + a.toNat * 1024
  | .addi gd d a i _ => 0x1000000 + gd.bits + d.toNat * 32768 + a.toNat * 1024 + i.toNat
  | .andi gd d a i _ => 0x1100000 + gd.bits + d.toNat * 32768 + a.toNat * 1024 + i.toNat
  | .ori gd d a i _ => 0x1200000 + gd.bits + d.toNat * 32768 + a.toNat * 1024 + i.toNat
  | .amo gd r a f c o z => 0x3800000 + gd.bits + r.toNat * 32768 + a.toNat * 1024 + f.toNat * 64 + c.toNat * 8 + o.toNat * 2 + z.toNat * 1
  | .cas gd r a q c o z => 0x3900000 + gd.bits + r.toNat * 32768 + a.toNat * 1024 + q.toNat * 128 + c.toNat * 8 + o.toNat * 2 + z.toNat * 1
  | .casl gd r a q k c o z => 0x3A00000 + gd.bits + r.toNat * 32768 + a.toNat * 1024 + q.toNat * 128 + k.toNat * 64 + c.toNat * 8 + o.toNat * 2 + z.toNat * 1
  | .bkpt gd k _ => 0x2B00000 + gd.bits + k.toNat
  | .bra gd o => 0x2000000 + gd.bits + o.toNat
  | .call gd o => 0x2100000 + gd.bits + o.toNat
  | .cadv gd r a c o => 0x3C00000 + gd.bits + r.toNat * 32768 + a.toNat * 1024 + c.toNat * 8 + o.toNat * 2
  | .cread gd r a c o => 0x3D00000 + gd.bits + r.toNat * 32768 + a.toNat * 1024 + c.toNat * 8 + o.toNat * 2
  | .cwait gd r a c o => 0x2800000 + gd.bits + r.toNat * 32768 + a.toNat * 1024 + c.toNat * 8 + o.toNat * 2
  | .cget gd c g => 0x7800000 + gd.bits + c.toNat * 1024 + g.toNat * 32
  | .cset gd c g _ => 0x7900000 + gd.bits + c.toNat * 1024 + g.toNat * 32
  | .ckpt gd a c => 0x6F00000 + gd.bits + a.toNat * 32768 + c.toNat * 32
  | .cmp gd d a b c z => 0x1900000 + gd.bits + d.toNat * 131072 + a.toNat * 4096 + b.toNat * 128 + c.toNat * 8 + z.toNat
  | .cmpi gd d a i c z => 0x1A00000 + gd.bits + d.toNat * 131072 + a.toNat * 4096 + i.toNat * 128 + c.toNat * 8 + z.toNat
  | .coll gd a b c t o => 0x6A00000 + gd.bits + a.toNat * 32768 + b.toNat * 1024 + c.toNat * 32 + t.toNat * 4 + o.toNat
  | .cpy gd a b c x h => 0x6700000 + gd.bits + a.toNat * 32768 + b.toNat * 1024 + c.toNat * 32 + x.toNat * 4 + h.toNat
  | .cpyg gd a b c x h => 0x6900000 + gd.bits + a.toNat * 32768 + b.toNat * 1024 + c.toNat * 32 + x.toNat * 4 + h.toNat
  | .cpyx gd a b c x h => 0x6800000 + gd.bits + a.toNat * 32768 + b.toNat * 1024 + c.toNat * 32 + x.toNat * 4 + h.toNat
  | .decl gd g => 0x7B00000 + gd.bits + g.toNat * 32
  | .div gd d a b u => 0xB00000 + gd.bits + d.toNat * 32768 + a.toNat * 1024 + b.toNat * 32 + u.toNat * 1
  | .rem gd d a b u => 0xC00000 + gd.bits + d.toNat * 32768 + a.toNat * 1024 + b.toNat * 32 + u.toNat * 1
  | .max gd d a b u => 0xE00000 + gd.bits + d.toNat * 32768 + a.toNat * 1024 + b.toNat * 32 + u.toNat * 1
  | .min gd d a b u => 0xD00000 + gd.bits + d.toNat * 32768 + a.toNat * 1024 + b.toNat * 32 + u.toNat * 1
  | .mul gd d a b => 0x900000 + gd.bits + d.toNat * 32768 + a.toNat * 1024 + b.toNat * 32
  | .mulh gd d a b u => 0xA00000 + gd.bits + d.toNat * 32768 + a.toNat * 1024 + b.toNat * 32 + u.toNat * 1
  | .or gd d a b => 0x300000 + gd.bits + d.toNat * 32768 + a.toNat * 1024 + b.toNat * 32
  | .popc gd d a => 0x1800000 + gd.bits + d.toNat * 32768 + a.toNat * 1024
  | .xor gd d a b => 0x400000 + gd.bits + d.toNat * 32768 + a.toNat * 1024 + b.toNat * 32
  | .sub gd d a b => 0x100000 + gd.bits + d.toNat * 32768 + a.toNat * 1024 + b.toNat * 32
  | .shl gd d a b => 0x600000 + gd.bits + d.toNat * 32768 + a.toNat * 1024 + b.toNat * 32
  | .shr gd d a b => 0x700000 + gd.bits + d.toNat * 32768 + a.toNat * 1024 + b.toNat * 32
  | .shra gd d a b => 0x800000 + gd.bits + d.toNat * 32768 + a.toNat * 1024 + b.toNat * 32
  | .sel gd d a b q => 0xF00000 + gd.bits + d.toNat * 32768 + a.toNat * 1024 + b.toNat * 32 + q.toNat
  | .shli gd d a h _ => 0x1300000 + gd.bits + d.toNat * 32768 + a.toNat * 1024 + h.toNat
  | .shri gd d a r h _ => 0x1400000 + gd.bits + d.toNat * 32768 + a.toNat * 1024 + r.toNat * 64 + h.toNat
  | .endTask gd => 0x2500000 + gd.bits
  | .fence gd c o => 0x2900000 + gd.bits + c.toNat * 8 + o.toNat * 2
  | .jr gd a => 0x2200000 + gd.bits + a.toNat * 1024
  | .ret gd => 0x2300000 + gd.bits
  | .krot gd a b c => 0x6E00000 + gd.bits + a.toNat * 32768 + b.toNat * 1024 + c.toNat * 32
  | .ld gd r b c z o => 0x3000000 + gd.bits + r.toNat * 32768 + b.toNat * 1024 + c.toNat * 128 + z.toNat * 32 + o.toNat
  | .st gd r b c z o => 0x3100000 + gd.bits + r.toNat * 32768 + b.toNat * 1024 + c.toNat * 128 + z.toNat * 32 + o.toNat
  | .li gd d i _ => 0x1500000 + gd.bits + d.toNat * 32768 + i.toNat
  | .lih gd d i _ => 0x1600000 + gd.bits + d.toNat * 32768 + i.toNat
  | .limm l => 0x7F00000 + l.toNat
  | .loop gd d i _ => 0x2400000 + gd.bits + d.toNat * 32768 + i.toNat
  | .mcfg gd a => 0x6400000 + gd.bits + a.toNat * 32768
  | .mscl gd a => 0x6300000 + gd.bits + a.toNat * 32768
  | .mms gd a b c m => 0x6100000 + gd.bits + a.toNat * 32768 + b.toNat * 1024 + c.toNat * 32 + m.toNat
  | .mdrn gd a b c => 0x6200000 + gd.bits + a.toNat * 32768 + b.toNat * 1024 + c.toNat * 32
  | .wld gd a => 0x6000000 + gd.bits + a.toNat * 32768
  | .nop gd => 0x2600000 + gd.bits
  | .plog gd d a b c => 0x1B00000 + gd.bits + d.toNat * 131072 + a.toNat * 4096 + b.toNat * 128 + c.toNat * 8
  | .probe gd a b c q => 0x3700000 + gd.bits + a.toNat * 32768 + b.toNat * 1024 + c.toNat * 32 + q.toNat
  | .red gd r a f c o z => 0x3B00000 + gd.bits + r.toNat * 32768 + a.toNat * 1024 + f.toNat * 64 + c.toNat * 8 + o.toNat * 2 + z.toNat * 1
  | .rstr gd g => 0x7C00000 + gd.bits + g.toNat * 32
  | .scrub gd a b c => 0x6D00000 + gd.bits + a.toNat * 32768 + b.toNat * 1024 + c.toNat * 32
  | .sealOpen gd a c => 0x6C00000 + gd.bits + a.toNat * 32768 + c.toNat * 32
  | .absorb gd a b c h => 0x6C00001 + gd.bits + a.toNat * 32768 + b.toNat * 1024 + c.toNat * 32 + h.toNat * 4
  | .sealClose gd => 0x6C00002 + gd.bits
  | .sfcfg gd a => 0x6600000 + gd.bits + a.toNat * 32768
  | .sfx gd a b c f => 0x6500000 + gd.bits + a.toNat * 32768 + b.toNat * 1024 + c.toNat * 32 + f.toNat
  | .spawn gd a b => 0x6B00000 + gd.bits + a.toNat * 32768 + b.toNat * 1024
  | .trap gd a k _ => 0x2A00000 + gd.bits + a.toNat * 1024 + k.toNat
  | .tretn gd => 0x7A00000 + gd.bits
  | .waitn gd a b c d e => 0x2700000 + gd.bits + a.toNat * 65536 + b.toNat * 4096 + c.toNat * 256 + d.toNat * 16 + e.toNat
  | .vabs gd t d a z => 0x4700000 + gd.bits + t.toNat * 65536 + d.toNat * 2048 + a.toNat * 64 + z.toNat * 1
  | .vadd gd t d a b z => 0x4000000 + gd.bits + t.toNat * 65536 + d.toNat * 2048 + a.toNat * 64 + b.toNat * 2 + z.toNat * 1
  | .vand gd t d a b z => 0x4800000 + gd.bits + t.toNat * 65536 + d.toNat * 2048 + a.toNat * 64 + b.toNat * 2 + z.toNat * 1
  | .vbcast gd t d a z => 0x7100000 + gd.bits + t.toNat * 65536 + d.toNat * 2048 + a.toNat * 64 + z.toNat * 1
  | .vext gd t d a b => 0x7200000 + gd.bits + t.toNat * 65536 + d.toNat * 2048 + a.toNat * 64 + b.toNat * 2
  | .vcast gd t d a => 0x5800000 + gd.bits + t.toNat * 65536 + d.toNat * 2048 + a.toNat * 64
  | .vcvt gd t d a e z => 0x5700000 + gd.bits + t.toNat * 65536 + d.toNat * 2048 + a.toNat * 64 + e.toNat * 2 + z.toNat * 1
  | .vcbx gd d a h q z => 0x5980000 + gd.bits + d.toNat * 2048 + a.toNat * 64 + h.toNat * 8 + q.toNat * 2 + z.toNat * 1
  | .vclamp gd t d a b z => 0x7000000 + gd.bits + t.toNat * 65536 + d.toNat * 2048 + a.toNat * 64 + b.toNat * 2 + z.toNat * 1
  | .vcmp gd t m a b z => 0x4E00000 + gd.bits + t.toNat * 65536 + m.toNat * 2048 + a.toNat * 64 + b.toNat * 2 + z.toNat * 1
  | .vfcmp gd t m a b z => 0x5600000 + gd.bits + t.toNat * 65536 + m.toNat * 2048 + a.toNat * 64 + b.toNat * 2 + z.toNat * 1
  | .vdot gd d a b z => 0x5E50000 + gd.bits + d.toNat * 2048 + a.toNat * 64 + b.toNat * 2 + z.toNat * 1
  | .vfdot gd d a b z => 0x5FA0000 + gd.bits + d.toNat * 2048 + a.toNat * 64 + b.toNat * 2 + z.toNat * 1
  | .vfadd gd t d a b z => 0x5000000 + gd.bits + t.toNat * 65536 + d.toNat * 2048 + a.toNat * 64 + b.toNat * 2 + z.toNat * 1
  | .vfsub gd t d a b z => 0x5100000 + gd.bits + t.toNat * 65536 + d.toNat * 2048 + a.toNat * 64 + b.toNat * 2 + z.toNat * 1
  | .vfmul gd t d a b z => 0x5200000 + gd.bits + t.toNat * 65536 + d.toNat * 2048 + a.toNat * 64 + b.toNat * 2 + z.toNat * 1
  | .vfma gd t d a b z => 0x5300000 + gd.bits + t.toNat * 65536 + d.toNat * 2048 + a.toNat * 64 + b.toNat * 2 + z.toNat * 1
  | .vfmin gd t d a b z => 0x5400000 + gd.bits + t.toNat * 65536 + d.toNat * 2048 + a.toNat * 64 + b.toNat * 2 + z.toNat * 1
  | .vfmax gd t d a b z => 0x5500000 + gd.bits + t.toNat * 65536 + d.toNat * 2048 + a.toNat * 64 + b.toNat * 2 + z.toNat * 1
  | .vgth gd r b c t => 0x3500000 + gd.bits + r.toNat * 32768 + b.toNat * 1024 + c.toNat * 128 + t.toNat * 8
  | .vlds gd r b c t => 0x3400000 + gd.bits + r.toNat * 32768 + b.toNat * 1024 + c.toNat * 128 + t.toNat * 8
  | .vsct gd r b c t => 0x3600000 + gd.bits + r.toNat * 32768 + b.toNat * 1024 + c.toNat * 128 + t.toNat * 8
  | .vins gd t d a b => 0x7300000 + gd.bits + t.toNat * 65536 + d.toNat * 2048 + a.toNat * 64 + b.toNat * 2
  | .vld gd r b c t q o => 0x3200000 + gd.bits + r.toNat * 32768 + b.toNat * 1024 + c.toNat * 128 + t.toNat * 8 + q.toNat * 4 + o.toNat
  | .vst gd r b c t q o => 0x3300000 + gd.bits + r.toNat * 32768 + b.toNat * 1024 + c.toNat * 128 + t.toNat * 8 + q.toNat * 4 + o.toNat
  | .vmad gd t d a b z => 0x4400000 + gd.bits + t.toNat * 65536 + d.toNat * 2048 + a.toNat * 64 + b.toNat * 2 + z.toNat * 1
  | .vmul gd t d a b z => 0x4200000 + gd.bits + t.toNat * 65536 + d.toNat * 2048 + a.toNat * 64 + b.toNat * 2 + z.toNat * 1
  | .vmulh gd t d a b z => 0x4300000 + gd.bits + t.toNat * 65536 + d.toNat * 2048 + a.toNat * 64 + b.toNat * 2 + z.toNat * 1
  | .vmax gd t d a b z => 0x4600000 + gd.bits + t.toNat * 65536 + d.toNat * 2048 + a.toNat * 64 + b.toNat * 2 + z.toNat * 1
  | .vmin gd t d a b z => 0x4500000 + gd.bits + t.toNat * 65536 + d.toNat * 2048 + a.toNat * 64 + b.toNat * 2 + z.toNat * 1
  | .vor gd t d a b z => 0x4900000 + gd.bits + t.toNat * 65536 + d.toNat * 2048 + a.toNat * 64 + b.toNat * 2 + z.toNat * 1
  | .vxor gd t d a b z => 0x4A00000 + gd.bits + t.toNat * 65536 + d.toNat * 2048 + a.toNat * 64 + b.toNat * 2 + z.toNat * 1
  | .vshl gd t d a b z => 0x4B00000 + gd.bits + t.toNat * 65536 + d.toNat * 2048 + a.toNat * 64 + b.toNat * 2 + z.toNat * 1
  | .vshr gd t d a b z => 0x4C00000 + gd.bits + t.toNat * 65536 + d.toNat * 2048 + a.toNat * 64 + b.toNat * 2 + z.toNat * 1
  | .vrshr gd t d a b z => 0x4D00000 + gd.bits + t.toNat * 65536 + d.toNat * 2048 + a.toNat * 64 + b.toNat * 2 + z.toNat * 1
  | .vsub gd t d a b z => 0x4100000 + gd.bits + t.toNat * 65536 + d.toNat * 2048 + a.toNat * 64 + b.toNat * 2 + z.toNat * 1
  | .vperm gd t d a b z => 0x7400000 + gd.bits + t.toNat * 65536 + d.toNat * 2048 + a.toNat * 64 + b.toNat * 2 + z.toNat * 1
  | .vslide gd t d a b z => 0x7500000 + gd.bits + t.toNat * 65536 + d.toNat * 2048 + a.toNat * 64 + b.toNat * 2 + z.toNat * 1
  | .vpk5 gd d a k => 0x5AF0000 + gd.bits + d.toNat * 2048 + a.toNat * 64 + k.toNat * 2
  | .vupk5 gd d a k => 0x5B10000 + gd.bits + d.toNat * 2048 + a.toNat * 64 + k.toNat * 2
  | .vred gd t d a b z => 0x5C00000 + gd.bits + t.toNat * 65536 + d.toNat * 2048 + a.toNat * 64 + b.toNat * 2 + z.toNat * 1
  | .vscan gd t d a z => 0x5D00000 + gd.bits + t.toNat * 65536 + d.toNat * 2048 + a.toNat * 64 + z.toNat * 1
  | .vsel gd m d a b => 0x4F00000 + gd.bits + m.toNat * 65536 + d.toNat * 2048 + a.toNat * 64 + b.toNat * 2
  | _ => 0

/-- The syllables of the table: the instructions that have words. -/
def Instr.isSyllable : Instr → Bool
  | .latch1Write .. | .latch2Write .. | .kslotWrite .. | .resultLands .. | .glReturn .. | .nullifiedBundle ..
  | .contextSwitch .. | .limiterFreeze .. | .bankConflictFreeze .. | .instructionFetch .. | .terminationRetire ..
  | .taskRetire .. | .storePerformed .. | .publicationComplete .. | .counterAdvance .. | .waiterWake ..
  | .atomicPerformed .. | .caslPerformed .. | .redPerformed .. | .wellheadHandoff .. | .launchAccept ..
  | .launchHandover .. | .taskSelect .. | .taskAgeing .. | .hostLaunch .. | .staging .. | .nestWalk ..
  | .nestRetire .. | .shutterComplete .. | .passRow .. | .skipPass .. | .drainRow .. | .copyComplete ..
  | .sweepComplete .. | .collComplete .. | .probeFill .. | .absorbComplete .. | .sealRecordWrite ..
  | .keyInstall .. | .reencryptionSweep .. | .scrubComplete .. | .ckptComplete .. | .rstrComplete ..
  | .correctableError .. | .atsCompletion .. | .prgResponse .. | .atsTimeout .. | .atsInvalidate ..
  | .invalidationCompletion .. | .timeSliceEnd .. | .partitionResume .. | .eventDelivery .. | .doorbell ..
  | .lockedRegisterWrite .. | .registerWrite .. | .startInterface .. | .stopInterface .. | .interfaceReset ..
  | .ideStreamInsecure .. | .modpwrWrite .. | .pwrlimWrite .. | .powerStateWrite .. | .fundamentalReset
  | .bringUp .. | .watchdogReset | .cxlMemRead .. | .cxlMemWrite .. | .spdmRequest .. | .peerKeyAgreement ..
  | .flitTagFailure .. | .ualinkPortDown .. | .flowDelivery .. | .layoutChange .. | .partitionStop ..
  | .granuleEntryWrite .. | .keySlotWrite .. | .flowTableWrite .. | .bandwidthWindow .. | .rowThrottle ..
  | .counterSample | .illegalEncoding .. | .lockInterface .. | .ideKm .. | .migrationDeschedule ..
  | .interfaceResume .. => false
  | _ => true

/-- The words of an instruction: its syllable, then the LIMM that carries its payload (R279); the stop bit is on
the last where `last` says the bundle ends there. -/
def encodeWords (i : Instr) (last : Bool) : List Nat :=
  let stop := last.toNat * 2 ^ 31
  match i.payload with
  | none => [encode i + stop]
  | some l => [encode i, encode (.limm l) + stop]

/-- Decode an instruction from its words: a syllable and, where a second word stands, the LIMM that extends it. -/
def decodeWords : List Nat → Option Instr
  | [w] => (decode w).toOption
  | [w, l] =>
    match (decode w).toOption, (decode l).toOption with
    | some i, some (.limm p) => if (i.extend p).payload = some p then some (i.extend p) else none
    | _, _ => none
  | _ => none

/-- What the decoder reads from the word of a table row; a row's word is one syllable of 32 bits. -/
def decodeTableWord (nbits w : Nat) : Option Instr :=
  if nbits ≤ 32 then (decode (w % 2 ^ 32)).toOption else decodeWords [w % 2 ^ 32, w / 2 ^ 32]

/-- Slot classes (R280). -/
inductive SlotClass where
  | s | b | m | v | x | f | c | y | limm
deriving DecidableEq, Repr

/-- The class of an OP; a reserved OP counts toward the class of its range (R280). -/
def slotClass (op : Nat) : SlotClass :=
  let ends : List (Nat × SlotClass) := [(0x20, .s), (0x30, .b), (0x40, .m), (0x60, .v), (0x65, .x), (0x67, .f), (0x70, .c), (0x78, .v), (0x7F, .y)]
  ((ends.find? (fun e => op < e.1)).map Prod.snd).getD .limm

/-- The cap of a class in one bundle (R280). -/
def SlotClass.cap : SlotClass → Nat
  | .b | .x | .f | .c | .y => 1
  | .s | .m => 2
  | .v => 3
  | .limm => 8

/-- RI and RL syllables and CSET may be extended by a LIMM (R281). -/
def extendable (op : Nat) : Bool :=
  (0x10 ≤ op && op ≤ 0x16) || op = 0x24 || op = 0x2A || op = 0x2B || op = 0x79

/-- One syllable of a decoded bundle: its index, its word, the LIMM word that extends it, its instruction. -/
structure Slot where
  idx : Nat
  word : Nat
  limm : Option Nat
  instr : Instr
deriving DecidableEq, Repr

/-- A bundle-level trap: its cause, the syllable index and TRAPVAL (R26 items 1 and 2, R197). -/
structure BundleFault where
  cause : BitVec 8
  syl : BitVec 3
  val : Word
deriving DecidableEq, Repr

/-- The syllables of a bundle: up to and including the first with S = 1 (R281). -/
def bundleWords : List Nat → List Nat
  | [] => []
  | w :: ws => if flag w 31 then [w] else w :: bundleWords ws

/-- A LIMM stands where it may not (R279, R281): `prev` is the OP before it. -/
def misplacedLimm : Option Nat → List Nat → Bool
  | _, [] => false
  | prev, w :: ws =>
    (fld w 20 7 = 0x7F && !(prev.any extendable)) || misplacedLimm (some (fld w 20 7)) ws

/-- The fields of an OP that have one legal value: unused ones, which are zero (R283), and the type field of an instruction of one type; lowest
bit, width and value. -/
def fixedFields (op : Nat) : List (Nat × Nat × Nat) :=
  match op with
  | 0x00 | 0x01 | 0x02 | 0x03 | 0x04 | 0x05 | 0x06 | 0x07 | 0x08 | 0x09 | 0x62 | 0x6D | 0x6E | 0x78 | 0x79 => [(0, 5, 0)]
  | 0x0A | 0x0B | 0x0C | 0x0D | 0x0E => [(1, 4, 0)]
  | 0x0F | 0x37 | 0x67 | 0x68 | 0x69 => [(3, 2, 0)]
  | 0x13 => [(6, 4, 0)]
  | 0x14 => [(7, 3, 0)]
  | 0x17 | 0x18 | 0x6B => [(0, 10, 0)]
  | 0x1B => [(0, 3, 0), (10, 2, 0), (15, 2, 0)]
  | 0x22 => [(0, 10, 0), (15, 5, 0)]
  | 0x23 | 0x25 | 0x26 | 0x7A => [(0, 20, 0)]
  | 0x28 | 0x3C | 0x3D => [(0, 1, 0), (6, 4, 0)]
  | 0x29 => [(0, 1, 0), (6, 14, 0)]
  | 0x2A => [(5, 5, 0), (15, 5, 0)]
  | 0x2B => [(10, 10, 0)]
  | 0x34 | 0x35 | 0x36 => [(0, 3, 0)]
  | 0x39 => [(6, 1, 0)]
  | 0x47 | 0x5D | 0x71 => [(1, 5, 0)]
  | 0x4E | 0x56 => [(14, 2, 0)]
  | 0x4F => [(0, 1, 0), (19, 1, 0)]
  | 0x57 => [(5, 1, 0)]
  | 0x58 => [(0, 6, 0)]
  | 0x59 => [(5, 1, 0), (16, 4, 8)]
  | 0x5A => [(0, 1, 0), (4, 2, 0), (16, 4, 15)]
  | 0x5B => [(0, 1, 0), (4, 2, 0), (16, 4, 1)]
  | 0x5E => [(16, 4, 5)]
  | 0x5F => [(16, 4, 10)]
  | 0x60 | 0x63 | 0x64 | 0x66 => [(0, 15, 0)]
  | 0x6F => [(0, 5, 0), (10, 5, 0)]
  | 0x72 | 0x73 => [(0, 1, 0)]
  | 0x7B | 0x7C => [(0, 5, 0), (10, 10, 0)]
  | _ => []

/-- A syllable with its fixed fields at their values: it names the destinations that it would name if it were legal. -/
def settled (w : Nat) : Nat :=
  (fixedFields (fld w 20 7)).foldl (fun w f => w - fld w f.1 f.2.1 * 2 ^ f.1 + f.2.2 * 2 ^ f.1) w

/-- Two syllables name one destination (R25), an illegal encoding's among them: that cause comes later (R281). -/
def duplicateDest (ws : List Nat) : Bool :=
  let ds := ws.flatMap (fun w => ((parse (settled w)).map Instr.dests).getD [])
  !(decide ds.Nodup)

/-- The illegal-bundle causes of R281, in its order. -/
def illegalBundle (ws : List Nat) : Bool :=
  let ops := ws.map (fun w => fld w 20 7)
  let tooMany (k : SlotClass) : Bool := k.cap < (ops.filter (fun o => slotClass o = k)).length
  !(ws.getLast?.any (fun w => flag w 31)) || ws.length > 8 || misplacedLimm none ws ||
  tooMany .s || tooMany .b || tooMany .m || tooMany .v || tooMany .x || tooMany .f || tooMany .c || tooMany .y ||
  (ops.any (fun o => slotClass o = .y) && ws.length > 1 && !(ops = [0x79, 0x7F])) || duplicateDest ws

/-- The command a CPYX carries may have no guard and may not forward (R160, R169). -/
def chainable (i : Instr) : Bool :=
  i.guard = Guard.always && (match i with
    | .mms _ _ _ _ m => !m.getLsbD 3
    | _ => true)

/-- Decode the syllables of a bundle in order, a LIMM going to the syllable it follows: the first illegal encoding
is the bundle's trap (R26 item 2, R279, R284). `cpyx` and `xcls` say that the bundle holds a CPYX and an X-class
syllable (R169). -/
def decodeSlots (cpyx xcls : Bool) : Nat → List Nat → Except BundleFault (List Slot)
  | _, [] => .ok []
  | k, w :: ws =>
    let bad (v : Nat) : Except BundleFault (List Slot) := .error ⟨0x01, BitVec.ofNat 3 k, BitVec.ofNat 64 v⟩
    let limm : Option Nat :=
      match ws with
      | l :: _ => if fld l 20 7 = 0x7F && extendable (fld w 20 7) then some l else none
      | [] => none
    if fld w 20 7 = 0x7F then
      (match decodeSlots cpyx xcls (k + 1) ws with
      | .ok rest => .ok (⟨k, w, none, .limm (bits w 0 20)⟩ :: rest)
      | .error e => .error e)
    else
    match decode w with
    | .error _ => bad w
    | .ok i =>
      if !(i.guard.ok && fieldsOk i) then bad w
      else if (slotClass (fld w 20 7) = .x && cpyx && !chainable i) ||
          (fld w 20 7 = 0x68 && !xcls) then bad w
      else
        match limm with
        | none =>
          (match decodeSlots cpyx xcls (k + 1) ws with
          | .ok rest => .ok (⟨k, w, none, i⟩ :: rest)
          | .error e => .error e)
        | some l =>
          if fld l 27 4 != 0 then bad (w + l * 2 ^ 32)
          else if !fieldsOk (i.extend (bits l 0 20)) then bad w
          else if !payloadOk (i.extend (bits l 0 20)) then bad (w + l * 2 ^ 32)
          else
            (match decodeSlots cpyx xcls (k + 1) ws with
            | .ok rest => .ok (⟨k, w, some l, i.extend (bits l 0 20)⟩ :: rest)
            | .error e => .error e)

/-- Decode a bundle whose words end at the first with S = 1, or are eight without one (R281). -/
def decodeBundle (ws : List Nat) : Except BundleFault (List Slot) :=
  if illegalBundle ws then .error ⟨0x02, 0, 0⟩
  else
    let ops := ws.map (fun w => fld w 20 7)
    decodeSlots (ops.any (fun o => o = 0x68)) (ops.any (fun o => slotClass o = .x)) 0 ws

end Sys2Proof
end

