-- ==== Sys2Proof/Machine/Pump.lean ====
section
/-! DEFINITION. Launches, task records, placement, pools, nests, starting and ending tasks, and waking waiters (R61, R62, R120,
R131, R132, R178 to R196, R204). -/

namespace Sys2Proof.Machine

/-! ### Reading for the Pump (R179, R217) -/

/-- What a Pump reads at a home crosses what lies between (R222, R227). -/
def State.carryRead (s : State) (die part : Nat) (p : Place) (a : Nat) (bytes : List Byte) : State :=
  (s.carry part die p a true []).carry part die p a false bytes

/-- Read global memory of a partition on a die, line by line; the records are read as their homes hold them. -/
def pumpReadLoop (ask : Asker) (die part : Nat) : List (Nat × Nat × Nat) → State → List Byte → Eng (List Byte)
  | [], s, acc => .ok acc s
  | (va, _, n) :: rest, s, acc =>
    if va / 2 ^ 56 != 0 then .fail 0x10 va s
    else
      match s.lookup ask die part va false with
      | .miss m => .wait (s.requestAts ask die m)
      | .denied => .fail 0x10 va (s.forgetDenial ask die part)
      | .hit p a =>
        if (s.refusal (256 * die) part .engineRead .pub p a).isSome then .fail 0x10 va s
        else if !s.rangeOk p a n then .fail 0x0F va s
        else
          let s := if p = .hbm then s.perfAdd part 16 1 else s
          pumpReadLoop ask die part rest (s.carryRead die part p a (s.homeBytes p a n)) (acc ++ s.homeBytes p a n)

def State.pumpRead (s : State) (ask : Asker) (die part va n : Nat) : Eng (List Byte) := pumpReadLoop ask die part (linePieces va n) s []

/-- 64-bit word i of a record. -/
def wordAt (bs : List Byte) (i : Nat) : Nat := leNat ((bs.drop (8 * i)).take 8)

/-- A wait word (R179): die, index and value. -/
def waitOf (w : Nat) : Nat × Nat × Nat := (bitsOf w 60 2, bitsOf w 44 16, bitsOf w 0 44)

/-- The task record of 64 bytes (R179). -/
def taskRecOf (bs : List Byte) : TaskRec :=
  let w0 := wordAt bs 0
  let w1 := wordAt bs 1
  let w2 := wordAt bs 2
  let w3 := wordAt bs 3
  { cscope := bitsOf w0 61 3, prio := bitsOf w0 56 5, entry := bitsOf w0 0 56, plen := bitsOf w1 56 8, param := bitsOf w1 0 56
    pin := bitsOf w2 63 1 = 1, cdie := bitsOf w2 61 2, nwait := bitsOf w2 58 3, cv := bitsOf w2 57 1 = 1
    av := bitsOf w2 56 1 = 1, affinity := bitsOf w2 0 56, cindex := bitsOf w3 48 16, budget := bitsOf w3 16 32
    taskNo := bitsOf w3 0 16, waits := (List.range (min 4 (bitsOf w2 58 3))).map (fun i => waitOf (wordAt bs (4 + i))) }

/-- A Cistern counter that a record may name: on a present die, in the partition's quota (R180). -/
def State.counterOk (s : State) (part die idx : Nat) : Bool := s.diePresent die && s.inQuota part die idx

/-- The checks of R180 on a task record. -/
def State.taskRecOk (s : State) (part no : Nat) (bs : List Byte) : Bool :=
  let r := taskRecOf bs
  r.taskNo = no && r.cscope ≤ 4 && r.nwait ≤ 4 && r.budget != 0 && r.entry % 4 = 0 && r.param % 8 = 0 &&
  (List.range r.nwait).all (fun i => bitsOf (wordAt bs (4 + i)) 62 2 = 0) &&
  r.waits.all (fun w => s.counterOk part w.1 w.2.1) && (!r.cv || s.counterOk part r.cdie r.cindex)

/-- A task number outside the table, or a record of another tenant (R180, R181). -/
def State.foreignTask (s : State) (part no : Nat) (tenant : BitVec 13) : Bool :=
  let d := s.part part
  let e := (d.tenantMap.getD no 0x6000).toNat
  d.taskLen ≤ no || bitsOf e 13 2 != 0 || (bitsOf e 15 1 = 0 && bitsOf e 0 13 != tenant.toNat)

/-- The address of a task record. -/
def State.taskAddr (s : State) (part no : Nat) : Nat := (s.part part).taskBase + 64 * no

/-- Read and check a task record (R179 to R181); a failure is a launch failure. -/
def State.readTask (s : State) (ask : Asker) (die part no : Nat) (tenant : BitVec 13) : Eng TaskRec :=
  if s.foreignTask part no tenant then .fail 0 0 s
  else
    match s.pumpRead ask die part (s.taskAddr part no) 64 with
    | .wait s => .wait s
    | .fail c v s => .fail c v s
    | .ok bs s => if s.taskRecOk part no bs then .ok (taskRecOf bs) s else .fail 0 0 s

/-! ### Placement (R192) -/

/-- The least of a list of numbers. -/
def leastOf : List Nat → Option Nat
  | [] => none
  | x :: xs => some (xs.foldl min x)

/-- The first partition core on a die, or of the package (R192). -/
def State.firstCore (s : State) (part die : Nat) : Nat :=
  let cs := (s.part part).cores
  ((leastOf (cs.filter (fun c => dieOf c = die))).orElse (fun _ => leastOf cs)).getD 0

/-- The core of a slice's entry of the placement map, with its fall-back. -/
def State.mapCore (s : State) (part slice : Nat) : Nat :=
  let e := ((s.part part).placement.getD slice 0).toNat
  let c := bitsOf e 0 10
  if bitsOf e 15 1 = 1 && (s.part part).cores.contains c && dieOf c = sliceDie slice then c
  else s.firstCore part (sliceDie slice)

/-- The number of a launch's task, its priority and the source order of R193. -/
def Launch.taskNo (l : Launch) : Nat := bitsOf l.handle.toNat 0 16
def Launch.prio (l : Launch) : Nat := bitsOf l.handle.toNat 16 5

/-- The source of a launch, one of those that hold their launches apart (R193). -/
def Launch.source (l : Launch) : Nat × Nat :=
  match l.src with
  | .continuation j _ => (0, j)
  | .spawn w => (1, w.core)
  | .nest n _ => (2, n)
  | .host i => (3, i)
  | .hostNest i => (3, i)

/-- The place of a launch in the order of R193 besides its rank: SPAWNs by CORENUM, host queues by interface. -/
def Launch.sub (l : Launch) : Nat :=
  match l.src with
  | .spawn w => w.core
  | .host i => i
  | .hostNest i => i
  | _ => 0

def Launch.rank (l : Launch) : Nat :=
  match l.src with
  | .continuation _ _ => 0
  | .spawn _ => 1
  | .nest _ _ => 2
  | .host _ => 3
  | .hostNest _ => 3

/-- The slice of a continuation. -/
def Launch.slice (l : Launch) : Option Nat :=
  match l.src with
  | .continuation j _ => some j
  | _ => none

/-- The core a task that is no nest body goes to (R192); an AFFINITY miss waits. -/
def State.placeTask (s : State) (die : Nat) (l : Launch) (r : TaskRec) : Eng Nat :=
  let h := l.handle.toNat
  let hint := bitsOf h 32 10
  let onDie (c : Nat) : Bool := match l.slice with
    | some j => dieOf c = sliceDie j
    | none => true
  let usable (c : Nat) : Nat := if (s.part l.part).cores.contains c then c else s.firstCore l.part (dieOf c)
  let rest : Nat := match l.src with
    | .continuation j _ => s.mapCore l.part j
    | .spawn w => usable w.core
    | .host i => usable (s.iface i).defcore.toNat
    | .hostNest i => usable (s.iface i).defcore.toNat
    | .nest _ _ => s.firstCore l.part die
  let sameDie (slice : Nat) : Bool := match l.slice with
    | some j => sliceDie slice = sliceDie j
    | none => true
  if bitsOf h 63 1 = 1 && (s.part l.part).cores.contains hint && onDie hint then .ok hint s
  else if r.av then
    match s.lookup (.pump l.id) die l.part r.affinity false with
    | .miss m => .wait (s.requestAts (.pump l.id) die m)
    | .denied => .ok rest (s.forgetDenial (.pump l.id) die l.part)
    | .hit .hbm a =>
      let mine := granuleV (s.granule a) && granulePart (s.granule a) = l.part
      .ok (if mine && sameDie (s.sliceOf a) then s.mapCore l.part (s.sliceOf a) else rest) s
    | .hit _ _ => .ok rest s
  else .ok rest s

/-- Read a launch's record and choose its core, once (R182): a launch that is held keeps what was read and chosen, unless its partition no
longer holds the core. -/
def State.offer (s : State) (die : Nat) (l : Launch) : Eng (Nat × TaskRec) :=
  match l.chosen.filter (fun c => (s.part l.part).cores.contains c.1) with
  | some c => .ok c s
  | none =>
    match s.readTask (.pump l.id) die l.part l.taskNo l.tenant with
    | .wait s => .wait s
    | .fail c v s => .fail c v s
    | .ok r s =>
      match s.placeTask die l r with
      | .wait s => .wait s
      | .fail c v s => .fail c v s
      | .ok c s => .ok (c, r) s

/-! ### Pools (R183, R193) -/

/-- Entries of a partition in a die's pool, with those on their way over the die links and the launches that a Pump has taken for it. -/
def State.poolUsed (s : State) (part die : Nat) : Nat :=
  let d := s.die die
  let taken := s.dies.flatMap (fun e => e.2.inbox.filter (fun l => l.part = part && l.dest = some die))
  (d.pool.filter (fun t => t.launch.part = part)).length + (d.handed.filter (fun t => t.launch.part = part)).length +
  (d.nests.filter (fun n => n.launch.part = part)).length + taken.length

def State.poolRoom (s : State) (part die : Nat) : Bool := s.poolUsed part die < (s.part part).poolShare

/-- A partition's launches are accepted and its tasks start only while it runs and is not frozen (R193, R210, R258). -/
def State.scheduled (s : State) (part : Nat) : Bool := (s.part part).state = .running && !s.frozen.contains part

/-- The Pump of a partition's nests (R188). -/
def State.nestDie (s : State) (part : Nat) : Nat := ((leastOf ((s.part part).cores.map dieOf)).getD 0)

/-- The place of a source in the order of R193: its rank, its CORENUM or interface, and when its holding began. -/
abbrev HoldKey := Nat × Nat × Nat

/-- The launches that are held for a partition's share of a die's pool, wherever they are. -/
def State.heldLaunches (s : State) (share part : Nat) : List Launch :=
  (s.slices.flatMap (fun j => j.2.well.map WellEntry.launch) ++ s.dies.flatMap (fun d => d.2.inbox) ++
    s.ifaces.filterMap (fun e => e.2.lqheld)).filter (fun l => l.part = part && l.held.any (fun h => h.1 = share))

/-- The other sources of a partition that are held because its share of a die's pool is full, by the order of R193: the launches of one source
do not stand behind one another. -/
def State.heldKeys (s : State) (share part : Nat) (src : Nat × Nat) : List HoldKey :=
  ((s.heldLaunches share part).filter (fun l => l.source != src)).map (fun l => (l.rank, l.sub, (l.held.map Prod.snd).getD 0)) ++
  s.dies.flatMap (fun d => d.2.nests.filterMap (fun n =>
    if n.launch.part = part && src != (2, n.serial) then (n.paused.filter (fun h => h.1 = share)).map (fun h => (2, 0, h.2)) else none))

/-- A key comes before another in the order of R193. -/
def HoldKey.before (h k : HoldKey) : Bool :=
  h.1 < k.1 || (h.1 = k.1 && (h.2.1 < k.2.1 || (h.2.1 = k.2.1 && h.2.2 < k.2.2)))

/-- A source that wants a place in a die's pool is behind another that is held for the same share (R193). -/
def State.behind (s : State) (share part : Nat) (src : Nat × Nat) (k : HoldKey) : Bool :=
  (s.heldKeys share part src).any (fun h => HoldKey.before h k)

/-- When the holding of a source began, if it is held; else it is the latest. -/
def State.heldSince (s : State) (h : Option (Nat × Nat)) : Nat := (h.map Prod.snd).getD s.serial

/-- A launch finds a place in a die's pool: the share has room and no held source comes before (R193). A place kept for it stays. -/
def State.takes (s : State) (share : Nat) (l : Launch) : Bool :=
  l.dest = some share ||
  (s.poolRoom l.part share && !s.behind share l.part l.source (l.rank, l.sub, s.heldSince l.held))

/-- When the holding of a launch's source for a share began, if another launch of it is held. -/
def State.sourceSince (s : State) (l : Launch) (share : Nat) : Option Nat :=
  leastOf (((s.heldLaunches share l.part).filter (fun x => x.source = l.source)).filterMap (fun x => x.held.map Prod.snd))

/-- A launch begins to be held for a share, or goes on being held; each holding of a source has a number of its own. -/
def State.hold (s : State) (l : Launch) (share : Nat) : Launch × State :=
  match l.held.map Prod.snd |>.orElse (fun _ => s.sourceSince l share) with
  | some st => ({ l with held := some (share, st), dest := none }, s)
  | none =>
    let (now, s) := s.fresh
    ({ l with held := some (share, now), dest := none }, s)

/-- A Pump has read a launch's record and chosen its core, as the next one it chooses (R182). -/
def State.pickCore (s : State) (l : Launch) (c : Nat × TaskRec) : Launch × State :=
  if l.chosen = some c then (l, s)
  else
    let (n, s) := s.fresh
    ({ l with chosen := some c, picked := n }, s)

/-- A launch stands behind an earlier held one of its own source at a Pump (R193). -/
def sourceStops (inbox : List Launch) (i : Nat) (l : Launch) : Bool :=
  (inbox.take i).any (fun x => x.part = l.part && x.source = l.source && x.held.isSome)

/-- A launch may go to its core's die: over the die links a Pump hands launches on in the order in which it chose their cores, but for one that
is held, itself or by its source, or whose partition does not run (R182, R193, R210). -/
def State.inTurn (s : State) (die to' : Nat) (l : Launch) : Bool :=
  let inbox := (s.die die).inbox
  to' = die || !inbox.zipIdx.any (fun e => e.1.id != l.id && e.1.held.isNone && s.scheduled e.1.part && !sourceStops inbox e.2 e.1 &&
    e.1.chosen.any (fun c => dieOf c.1 = to') && (l.chosen.isNone || e.1.picked < l.picked))

/-- A source of a partition whose launch a Pump holds for a full share: the source is held too (R182, R193). -/
def State.sourceHeld (s : State) (part : Nat) (src : Nat × Nat) : Bool :=
  s.dies.any (fun d => d.2.inbox.any (fun l => l.part = part && l.held.isSome && l.source = src))

/-- Drop the waits that hold, keeping the advances that satisfied them (R178, R183). -/
def State.settle (s : State) : List (Nat × Nat × Nat) → List Nat → List (Nat × Nat × Nat) × List Nat
  | [], rels => ([], rels)
  | (d, i, v) :: rest, rels =>
    let k : CtrKey := .cistern d i
    if v ≤ s.ctrValue k then s.settle rest (unionNat (s.ctrRels' k) rels) else ((d, i, v) :: rest, rels)

/-- Tuple `u` precedes tuple `t` at some T level (R190). -/
def precedes (levels : List (Nat × Nat × Word)) (u t : List Nat) : Bool :=
  levels.zipIdx.any (fun e =>
    e.1.2.1 = 0 && t.getD e.2 0 != 0 && u.take e.2 = t.take e.2 && u.getD e.2 0 + 1 = t.getD e.2 0)

/-- The nest of a serial. -/
def State.nest? (s : State) (serial : Nat) : Option Nest :=
  s.dies.findSome? (fun d => d.2.nests.find? (fun n => n.serial = serial))

/-- A body task that R190 holds: a predecessor has not ended. -/
def State.bodyHeld (s : State) (l : Launch) : Bool :=
  match l.src with
  | .nest serial tuple =>
    (match s.nest? serial with
    | none => false
    | some n => n.live.any (fun u => precedes n.nrec.levels u tuple))
  | _ => false

/-- A task enters a die's pool: its first wait that does not hold is armed, or it enters its core's ready set (R183). -/
def State.poolEnter (s : State) (die : Nat) (t : PoolTask) : State :=
  let (ws, rels) := s.settle t.waits t.rels
  let ready := if ws.isEmpty && !s.bodyHeld t.launch then some ((s.die die).cycles, 0) else none
  let s := s.modDie die (fun d => { d with pool := d.pool ++ [{ t with waits := ws, rels := rels, ready := ready }] })
  match ws with
  | [] => s
  | (d, i, v) :: _ => s.addWaiter (.cistern d i) (.task t.serial (.cistern d i) v false)

/-- Take a task into the pool of its core's die, over the die links where that is another (R182). -/
def State.acceptTask (s : State) (die core base : Nat) (l : Launch) (r : TaskRec) (waits : List (Nat × Nat × Nat)) : State :=
  let (serial, s) := s.fresh
  let tdie := dieOf core
  let number := (s.die tdie).launches + 1
  let s := s.modDie tdie (fun d => { d with launches := number })
  let t : PoolTask := ⟨serial, number, { l with chosen := none, held := none, dest := none, picked := 0 }, r, core, base, waits, [], none⟩
  if tdie = die then s.poolEnter die t else s.modDie tdie (fun d => { d with handed := d.handed ++ [t] })

/-! ### Launch faults (R132, R180, R249) -/

/-- A continuation that fails as it leaves the Wellhead (R132): the slice's record, and the launch-fault counter. -/
def State.wellFault (s : State) (slice addr : Nat) (l : Launch) : State :=
  s.faultLog l.part 1 0 slice l.tenant.toNat addr l.handle.toNat 0

/-- A launch that fails at its Pump (R180): its record, and the launch-fault counter. -/
def State.launchFault (s : State) (l : Launch) : State :=
  match l.src with
  | .hostNest _ => s.faultLog l.part 2 0 0xFFFF l.tenant.toNat l.handle.toNat 0 0
  | _ => s.faultLog l.part 2 0 0xFFFF l.tenant.toNat (s.taskAddr l.part l.taskNo) l.taskNo 0

/-- The i-th launch leaves the inbox; a SPAWN's CP falls (R185). -/
def State.leaveInbox (s : State) (die i : Nat) (l : Launch) : State :=
  let s := s.modDie die (fun d => { d with inbox := removeAt d.inbox i })
  match l.src with
  | .spawn w => s.modCtx w (fun c => c.drop .cp 1)
  | _ => s

/-! ### SPAWN (R185) -/

/-- SPAWN: the checks, a release at package scope, and the launch on its way to its die's Pump. -/
def execSpawn (gd : Guard) (a b : BitVec 5) (s : State) : Out :=
  s.guarded gd fun s => s.roomFor .cp 1 fun s =>
    if bitsOf (s.gw a).toNat 21 11 != 0 then s.raise 0x08 (s.gw a)
    else if s.gsens a != .pub then s.raise 0x05 (a.setWidth 64)
    else if s.gsens b = .seal then s.raise 0x05 (b.setWidth 64)
    else if s.gsens (b + 1) = .seal then s.raise 0x05 ((b + 1).setWidth 64)
    else
      let (id, s) := s.fresh
      let l : Launch :=
        { id, chosen := none, picked := 0, src := .spawn s.who, part := s.cur.part, handle := s.gw a, arg0 := s.gw b, arg1 := s.gw (b + 1)
          tenant := s.cur.kslot, age := s.cur.age.toNat, rels := [], pub := none, held := none, dest := none }
      let (rid, pid, s) := s.release s.who .package false
      .next ((s.modDie (dieOf s.issue.core) (fun d => { d with
        inbox := d.inbox ++ [{ l with rels := [rid], pub := pid }] })).modCur (fun c => c.bump .cp 1))

/-! ### Wellheads, acceptance and handover (R131, R132, R182) -/

/-- WELLHEAD_HANDOFF: a slice hands the launch at the head of its Wellhead to its die's Pump, in the order in which the atomics were performed
(R131): one for which a share is full is held there and holds what is behind it (R193; that this holds other partitions' launches too is
DEDUCED, log 27). One whose translation is awaited, or whose partition does not run, waits at the Pump by itself (R192, R210, R217); one of a
bad task number or another tenant fails as it leaves (R132), and one that breaks R180 fails at the Pump. -/
def execWellheadHandoff (slice : Nat) (s : State) : Out :=
  match (s.slice slice).well with
  | [] => .next s
  | e :: rest =>
    let die := sliceDie slice
    let l := e.launch
    let drop (s : State) : State := s.modSlice slice (fun x => { x with well := rest })
    let take (s : State) (l : Launch) : State := (drop s).modDie die (fun d => { d with inbox := d.inbox ++ [{ l with held := none }] })
    if s.foreignTask l.part l.taskNo l.tenant then (match l.src with
      | .continuation j a => .next ((drop s).wellFault j a l)
      | _ => .next (drop s))
    else if s.sourceHeld l.part (0, slice) then .next s
    else if !s.scheduled l.part then .next (take s l)
    else
      match s.offer die l with
      | .wait s => .next (take s l)
      | .fail _ _ s => .next ((drop s).launchFault l)
      | .ok (c, r) s =>
        let (l, s) := s.pickCore l (c, r)
        if s.takes (dieOf c) l then .next (take s { l with dest := some (dieOf c) })
        else
          let (l, s) := s.hold l (dieOf c)
          .next (s.modSlice slice (fun x => { x with well := { e with launch := l } :: rest }))

/-- The nest record of 128 bytes (R187). -/
def nestRecOf (bs : List Byte) : NestRec :=
  let w0 := wordAt bs 0
  { nestNo := bitsOf w0 46 16, cindex := bitsOf w0 30 16, cdie := bitsOf w0 28 2, cv := bitsOf w0 27 1 = 1
    scope := bitsOf w0 24 3, prio := bitsOf w0 19 5, taskNo := bitsOf w0 0 16
    levels := (List.range (bitsOf w0 16 3)).map (fun l =>
      (bitsOf (wordAt bs (4 + 2 * l)) 0 32, bitsOf (wordAt bs (4 + 2 * l)) 32 2, BitVec.ofNat 64 (wordAt bs (5 + 2 * l))))
    wsAddr := bitsOf (wordAt bs 1) 0 56, wsn := bitsOf (wordAt bs 1) 56 8
    waits := [waitOf (wordAt bs 2), waitOf (wordAt bs 3)] }

/-- The checks of R187 on a nest record. A wait of value 0 always holds, and its counter is not checked: that a record without waits, whose
words are 0, is not refused for its partition's quota is DESIGN CHOICE, log 80. -/
def State.nestRecOk (s : State) (part : Nat) (bs : List Byte) : Bool :=
  let r := nestRecOf bs
  let w0 := wordAt bs 0
  bitsOf w0 62 2 = 0 && r.nestNo != 0xFFFF && r.scope ≤ 4 && 1 ≤ bitsOf w0 16 3 && bitsOf w0 16 3 ≤ 6 &&
  r.wsAddr % 64 = 0 && bitsOf (wordAt bs 2) 62 2 = 0 && bitsOf (wordAt bs 3) 62 2 = 0 &&
  (List.range r.levels.length).all (fun l => bitsOf (wordAt bs (4 + 2 * l)) 34 30 = 0) &&
  r.levels.all (fun l => l.1 != 0 && l.2.1 != 3) && r.waits.all (fun w => w.2.2 = 0 || s.counterOk part w.1 w.2.1) &&
  (!r.cv || s.counterOk part r.cdie r.cindex)

/-- A nest enters its Pump's pool and arms its first wait (R183, R188). A wait of value 0 holds as any other does, but where its counter is none
of the partition's it names none. -/
def State.nestEnter (s : State) (die : Nat) (l : Launch) (r : NestRec) : State :=
  let (serial, s) := s.fresh
  let (ws, rels) := s.settle (r.waits.filter (fun w => s.counterOk l.part w.1 w.2.1)) l.rels
  let n : Nest :=
    { serial, launch := { l with chosen := none, held := none, dest := none, picked := 0 }, addr := l.handle.toNat, nrec := r, waits := ws
      staged := false, ranges := 0, copy := none, ids := [], next := some (r.levels.map (fun _ => 0)), live := [], paused := none, rels, taskRels := [] }
  let s := s.modDie die (fun d => { d with nests := d.nests ++ [n] })
  match ws with
  | [] => s
  | (d, i, v) :: _ => s.addWaiter (.cistern d i) (.nest serial (.cistern d i) v false)

/-- A launch of the inbox is held for a share, with what was read and chosen for it (R182, R193). -/
def State.holdLaunch (s : State) (die i share : Nat) (l : Launch) : State :=
  let (l, s) := s.hold l share
  s.modDie die (fun d => { d with inbox := d.inbox.set i l })

/-- LAUNCH_ACCEPT: a Pump accepts the i-th launch that has reached it, its release complete: it reads and checks the record,
chooses the core and takes it into a pool; a failure is logged; a full share holds it, and with it the later launches of its source
(R180 to R182, R193). -/
def execLaunchAccept (die i : Nat) (s : State) : Out :=
  match (s.die die).inbox[i]? with
  | none => .next s
  | some l =>
    if !s.scheduled l.part || s.pubs.any (fun p => l.pub = some p.id) || sourceStops (s.die die).inbox i l then .next s
    else
      match l.src with
      | .hostNest _ =>
        if l.handle.toNat % 128 != 0 || bitsOf l.handle.toNat 56 8 != 0 then .next ((s.leaveInbox die i l).launchFault l)
        else
        (match s.pumpRead (.pump l.id) die l.part l.handle.toNat 128 with
        | .wait s => .next s
        | .fail _ _ s => .next ((s.leaveInbox die i l).launchFault l)
        | .ok bs s =>
          let r := nestRecOf bs
          if !s.nestRecOk l.part bs then
            .next ((s.leaveInbox die i l).faultLog l.part 2 0 0xFFFF l.tenant.toNat l.handle.toNat r.taskNo 0)
          else if s.takes die l then .next ((s.leaveInbox die i l).nestEnter die l r)
          else .next (s.holdLaunch die i die l))
      | _ =>
        (match s.offer die l with
        | .wait s => .next s
        | .fail _ _ s => .next ((s.leaveInbox die i l).launchFault l)
        | .ok (core, r) s =>
          if !s.inTurn die (dieOf core) l then .next s
          else if s.takes (dieOf core) l then
            let s := s.leaveInbox die i l
            let s := match l.src with
              | .spawn _ => s.perfAdd l.part 30 1
              | _ => s
            .next (s.acceptTask die core (min l.prio r.prio) l r r.waits)
          else
            let (l, s) := s.pickCore l (core, r)
            .next (s.holdLaunch die i (dieOf core) l))

/-- LAUNCH_HANDOVER: the oldest launch handed over the die links enters this die's pool (R182). -/
def execLaunchHandover (die : Nat) (s : State) : Out :=
  match (s.die die).handed with
  | [] => .next s
  | t :: rest => .next ((s.modDie die (fun d => { d with handed := rest })).poolEnter die t)

/-! ### Waking waiters (R120, R183) -/

/-- A task in a pool examines its waits again. -/
def State.rearmTask (s : State) (serial : Nat) : State :=
  match List.find? (fun (d : Nat × Die) => d.2.pool.any (fun t => t.serial = serial)) s.dies with
  | none => s
  | some (die, d) =>
    match d.pool.find? (fun t => t.serial = serial) with
    | none => s
    | some t =>
      let (ws, rels) := s.settle t.waits t.rels
      let ready := if ws.isEmpty && !s.bodyHeld t.launch then some (d.cycles, 0) else none
      let s := s.modDie die (fun x => { x with
        pool := x.pool.map (fun y => if y.serial = serial then { y with waits := ws, rels := rels, ready := ready } else y) })
      match ws with
      | [] => s
      | (k, i, v) :: _ => s.addWaiter (.cistern k i) (.task serial (.cistern k i) v false)

/-- A nest examines its waits again. -/
def State.rearmNest (s : State) (serial : Nat) : State :=
  match s.nest? serial with
  | none => s
  | some n =>
    let (ws, rels) := s.settle n.waits n.rels
    let s := { s with dies := s.dies.map (fun d => (d.1, { d.2 with
      nests := d.2.nests.map (fun x => if x.serial = serial then { x with waits := ws, rels := rels } else x) })) }
    match ws with
    | [] => s
    | (k, i, v) :: _ => s.addWaiter (.cistern k i) (.nest serial (.cistern k i) v false)

/-- WAITER_WAKE: the Cistern of a die wakes the first satisfied waiter in order of arrival (R120). -/
def execWaiterWake (die : Nat) (s : State) : Out :=
  match (s.die die).waiters.find? Waiter.due with
  | none => .next s
  | some w =>
    let s := s.modDie die (fun d => { d with waiters := dropFirst (fun x => x = w) d.waiters })
    match w with
    | .ctx who _ _ _ =>
      .next (s.modCtx who (fun c => match c.block with
        | some (.cwait _ h v) => { c with woken := some (h, v) }
        | _ => c))
    | .task serial _ _ _ => .next (s.rearmTask serial)
    | .nest serial _ _ _ => .next (s.rearmNest serial)

/-! ### Ageing, selection and start (R61, R62, R183, R194, R195) -/

/-- TASK_AGEING: one scheduled cycle of the die passes for its ready tasks (R194). -/
def execTaskAgeing (die : Nat) (s : State) : Out :=
  .next (if !s.diePresent die then s else s.modDie die (fun d => { d with
    cycles := d.cycles + 1
    pool := d.pool.map (fun t => if s.scheduled t.launch.part then
      { t with ready := t.ready.map (fun r => (r.1, r.2 + 1)) } else t) }))

/-- The number of whole ageing intervals a ready task has waited. -/
def PoolTask.k (t : PoolTask) : Nat := (t.ready.map (fun r => r.2 / max 256 t.launch.age)).getD 0

/-- The effective priority (R194). -/
def PoolTask.prio (t : PoolTask) : Nat := min 31 (t.base + t.k)

/-- A task that entered its ready set in an earlier cycle. -/
def PoolTask.seen (t : PoolTask) (now : Nat) : Bool := t.ready.any (fun r => r.1 < now)

/-- A task that a free core may steal (R194). -/
def PoolTask.stealable (t : PoolTask) (core : Nat) : Bool :=
  !t.trec.pin && t.core != core && ((t.k = 1 && clusterOf t.core = clusterOf core) || 2 ≤ t.k)

/-- Task `a` is selected before task `b` (R195). -/
def PoolTask.before (a b : PoolTask) : Bool :=
  let sa := (a.ready.map Prod.fst).getD 0
  let sb := (b.ready.map Prod.fst).getD 0
  if a.prio != b.prio then b.prio < a.prio
  else if sa != sb then sa < sb
  else if a.core != b.core then a.core < b.core
  else a.launch.rank < b.launch.rank || (a.launch.rank = b.launch.rank && a.launch.sub < b.launch.sub)

/-- The first task in the order of R195. -/
def bestTask : List PoolTask → Option PoolTask
  | [] => none
  | t :: ts => some (ts.foldl (fun b x => if x.before b then x else b) t)

/-- A context is idle (R17). -/
def Ctx.isIdle (c : Ctx) : Bool := c.task.isNone && c.starting.isNone

/-- No SCRUB of another context of a core is blocked, for whatever reason its bundle waits, and none whose block has ended is still to be
tried again (R214, R348; DEDUCED, log 88). -/
def State.scrubFree (s : State) (core x : Nat) : Bool :=
  [0, 1, 2, 3].all (fun i => i = x || !((s.core core).ctx i).scrubs)

/-- A core takes part in the selection of R195 through a context: the context is idle, every lower one is not, and no SCRUB of another
context of the core is blocked (R348). -/
def State.selects (s : State) (core x : Nat) : Bool :=
  let k := s.core core
  (k.ctx x).isIdle && (List.range x).all (fun i => !(k.ctx i).isIdle) && s.scrubFree core x

/-- The candidate that an idle context of a core selects (R195). A core with a ready task of a partition that is not scheduled is not free to
steal: its ready set is not empty (DESIGN CHOICE, log 81). -/
def State.candidate (s : State) (core : Nat) : Option PoolTask :=
  let d := s.die (dieOf core)
  let ready := d.pool.filter (fun t => t.seen d.cycles && s.scheduled t.launch.part)
  let own := ready.filter (fun t => t.core = core)
  if own.isEmpty then
    bestTask (ready.filter (fun t => t.stealable core && (s.part t.launch.part).cores.contains core &&
      !(d.pool.any (fun x => x.core = core && x.ready.isSome))))
  else bestTask own

/-- A lower core of the die would steal the task in this cycle too, and takes it (R195). -/
def State.stolenBelow (s : State) (core : Nat) (t : PoolTask) : Bool :=
  t.core != core && (s.part t.launch.part).cores.any (fun c =>
    c < core && dieOf c = dieOf core && c != t.core && [0, 1, 2, 3].any (s.selects c) &&
    (s.candidate c).any (fun u => u.serial = t.serial))

/-- The releases of predecessors that a body's acquire at SCOPE matches, with that scope (R190). -/
def State.bodyRels (s : State) (l : Launch) : Scope × List Nat :=
  match l.src with
  | .nest serial tuple =>
    (match s.nest? serial with
    | none => (.core, [])
    | some n => (Scope.ofCode n.nrec.scope, (n.taskRels.filter (fun e => precedes n.nrec.levels e.1 tuple)).map Prod.snd))
  | _ => (.core, [])

/-- Level indices of a nest body as g3 to g8 (R188). -/
def State.indexRegs (s : State) (l : Launch) : Option (Nat × List Word) :=
  match l.src with
  | .nest serial tuple =>
    (s.nest? serial).map (fun n =>
      (n.nrec.nestNo, (n.nrec.levels.zip tuple).map (fun e => BitVec.ofNat 64 e.2 * e.1.2.2)))
  | _ => none

/-- Set g registers from a number on. -/
def Ctx.fillG (c : Ctx) (sens : Sens) : Nat → List Word → Ctx
  | _, [] => c
  | r, w :: ws => (c.writeReg (.g (BitVec.ofNat 5 r)) (w.setWidth 2048) 0 sens).fillG sens (r + 1) ws

/-- The state of a context at the start of a task (R44, R61), before the parameter copy. -/
def State.startCtx (s : State) (who : Who) (t : PoolTask) : Ctx :=
  let l := t.launch
  let d := s.part l.part
  let me : Agent := .core who.core
  let (sc, preds) := s.bodyRels l
  let ix := s.indexRegs l
  let info : TaskInfo :=
    { part := l.part, cscope := Scope.ofCode t.trec.cscope, cv := t.trec.cv, cdie := t.trec.cdie, cindex := t.trec.cindex
      nest := match l.src with
        | .nest serial tuple => some (serial, ((s.nest? serial).map (fun n => n.nrec.scope)).getD 0, tuple)
        | _ => none
      taskAddr := s.taskAddr l.part t.trec.taskNo }
  let c : Ctx := { Ctx.reset with
    task := some info, pc := BitVec.ofNat 64 t.trec.entry
    taskId := BitVec.ofNat 64 (t.trec.taskNo + 65536 * t.number)
    nestId := BitVec.ofNat 16 ((ix.map Prod.fst).getD 0xFFFF), budget := BitVec.ofNat 64 t.trec.budget
    tvec := d.tvec &&& ~~~3#64, hashKey := d.hashkey.getD (who.ctx % 4) 0, kslot := l.tenant, age := d.age
    vis := unionNat (s.acquired me .package (l.rels ++ t.rels)) (s.acquired me sc preds) }
  let c := c.fillG .ten 1 ([l.arg0, l.arg1] ++ (((ix.map Prod.snd).getD []) ++ List.replicate 6 0).take 6 ++
    [BitVec.ofNat 64 t.trec.param])
  c.fillG .pub 30 [BitVec.ofNat 64 (65536 * (who.ctx % 4))]

/-- The reads of the parameter copy, after the starting acquire (R62): the bytes, a wait, or the failure. The spec does not say what the copy
does with a block in a save area, in the overflow region or in a granule of sealed weights: the first two fail with cause 0x10, as a page that
is not the partition's does, and the third is read as the bytes it holds (DESIGN CHOICE, log 82). -/
def paramLoop (ask : Asker) (who : Who) (part : Nat) (vis : List Nat) : List (Nat × Nat × Nat) → State → List Byte → Eng (List Byte)
  | [], s, acc => .ok acc s
  | (va, _, n) :: rest, s, acc =>
    let die := dieOf who.core
    if va / 2 ^ 56 != 0 then .fail 0x10 va s
    else
      match s.lookup ask die part va false with
      | .miss m => .wait (s.requestAts ask die m)
      | .denied => .fail 0x10 va (s.forgetDenial ask die part)
      | .hit p a =>
        if (s.refusal who.core part .engineRead .pub p a).isSome then .fail 0x10 va s
        else if !s.rangeOk p a n then .fail 0x0F va s
        else
          let (bs, s) := s.readChoice who.core (fun w => vis.contains w.id) (fun _ => false) p a n
          let s := if p = .hbm then s.perfAdd part 16 1 else s
          paramLoop ask who part vis rest (s.carryRead die part p a (bs.map Prod.fst)) (acc ++ bs.map Prod.fst)

/-- A new task on a context, or another partition's, has none of the earlier one's writes as its own (R61). -/
def State.disown (s : State) (who : Who) : State :=
  { s with hist := s.hist.map (fun (w : Write) => if w.owner = some who then { w with owner := none } else w) }

/-- Start a selected task on its context (R61, R62, R183); while its parameter block waits for a translation the context stays taken and
the task starts later (R217). -/
def State.startTask (s : State) (who : Who) (t : PoolTask) : State :=
  let c := s.startCtx who t
  let n := 8 * t.trec.plen
  let put (s : State) (c : Ctx) : State := ((s.disown who).setCtx who c).perfAdd t.launch.part 24 1
  if n = 0 then put s c
  else
    match paramLoop (.pump t.serial) who t.launch.part c.vis (linePieces t.trec.param n) s [] with
    | .wait s => s.modCtx who (fun c => { c with starting := some t })
    | .fail cause v s => put s { c with startFault := some ⟨BitVec.ofNat 8 cause, BitVec.ofNat 64 v⟩ }
    | .ok bs s =>
      let s := s.modCore who.core (fun k => k.putBuf false (65536 * (who.ctx % 4)) bs (fun _ l =>
        { l with fmt := 0, sens := l.sens.max .ten }))
      let words := (List.range (min 6 t.trec.plen)).map (fun i => BitVec.ofNat 64 (wordAt bs i))
      let c := match t.launch.src with
        | .nest _ _ => c
        | _ => c.fillG .ten 3 words
      put s c

/-- A selected task leaves its ready set and its pool (R195). -/
def State.unpool (s : State) (die serial : Nat) : State :=
  s.modDie die (fun d => { d with pool := d.pool.filter (fun x => x.serial != serial) })

/-- TASK_SELECT: an idle context of a core of a running partition selects a task and starts it (R195). The lower of two idle
contexts selects first, and of two cores that would steal one task the lower. A context that waits for a parameter block tries again,
but for what R348 holds back (R217). -/
def execTaskSelect (core : Nat) (ctx : BitVec 2) (s : State) : Out :=
  let who : Who := ⟨core, ctx.toNat⟩
  match (s.ctx who).task, (s.ctx who).starting with
  | none, some t => if s.scheduled t.launch.part && s.scrubFree core ctx.toNat then .next (s.startTask who t) else .next s
  | _, _ =>
    if !s.selects core ctx.toNat then .next s
    else
      match s.candidate core with
      | none => .next s
      | some t => if s.stolenBelow core t then .next s else .next ((s.unpool (dieOf core) t.serial).startTask who t)

/-! ### Retirement (R184, R190, R204) -/

/-- Body tasks whose predecessors have ended enter their ready sets (R190). -/
def State.releaseBodies (s : State) (serial : Nat) : State :=
  { s with dies := s.dies.map (fun (d : Nat × Die) => (d.1, { d.2 with
      pool := d.2.pool.map (fun (t : PoolTask) => match t.launch.src with
        | .nest k _ => if k = serial && t.ready.isNone && t.waits.isEmpty && !s.bodyHeld t.launch then
            { t with ready := some (d.2.cycles, 0) } else t
        | _ => t) })) }

/-- A body task has ended, with the release it made, if any (R190). -/
def State.endBody (s : State) (serial : Nat) (tuple : List Nat) (rel : Option Nat) : State :=
  let done (n : Nest) : Nest :=
    { n with live := dropFirst (fun u => u = tuple) n.live, taskRels := n.taskRels ++ (rel.map (fun r => (tuple, r))).toList }
  let fix (d : Nat × Die) : Nat × Die :=
    (d.1, { d.2 with nests := d.2.nests.map (fun n => if n.serial = serial then done n else n) })
  ({ s with dies := s.dies.map fix } : State).releaseBodies serial

/-- A context becomes idle (R17). -/
def Ctx.idle (c : Ctx) : Ctx := { c with task := none, starting := none, ending := none, terminating := none, logged := false, block := none, woken := none, stores := [] }

/-- A context leaves its task: it waits for no translation of the partition any more (R217), and is idle (R17). -/
def State.leaveTask (s : State) (who : Who) (part : Nat) : State :=
  let mine (m : Miss) : Bool := m.pasid = part
  ((s.forgetDenial (.slot who) (dieOf who.core) part).modDie (dieOf who.core) (fun d => { d with
    ats := d.ats.map (fun (r : AtsReq) =>
      if mine r.miss then { r with askers := r.askers.filter (fun a => a != .slot who) } else r) })).modCtx who Ctx.idle

/-- The context has written the last row of its last lock-step pass (R152, R319). -/
def Core.passDone (k : Core) (x : Nat) : Bool := k.passes.all (fun p => p.ctx != x % 4)

/-- TASK_RETIRE: a context whose END has issued and whose counts are zero publishes its stores, advances its counter, does its
nest's bookkeeping and becomes idle (R184, R190). The first step begins the publication where stores are left. -/
def execTaskRetire (core : Nat) (ctx : BitVec 2) (s : State) : Out :=
  let who : Who := ⟨core, ctx.toNat⟩
  let c := s.ctx who
  match c.task with
  | none => .next s
  | some info =>
    if c.ending.isNone || c.terminating.isSome || !c.counts.allZero || !c.reports.isEmpty || !(s.core core).passDone who.ctx then
      .next s
    else if !c.stores.isEmpty then .next (s.release who info.cscope false).2.2
    else if s.pubs.any (fun p => p.who = who) then .next s
    else
      let (rid, _, s) := s.release who info.cscope false
      let s := if !info.cv then s
        else
          match s.ctrAdvance (.cistern info.cdie info.cindex) 1 rid with
          | some s => s
          | none => s.faultLog info.part 5 0x12 0xFFFF c.kslot.toNat info.taskAddr c.taskId.toNat 0
      let s := match info.nest with
        | none => s
        | some (serial, scope, tuple) =>
          let (r2, _, s) := s.release who (Scope.ofCode scope) false
          s.endBody serial tuple (some r2)
      .next ((s.leaveTask who info.part).perfAdd info.part 25 1)

/-- TERMINATION_RETIRE: a terminated task whose counts are zero retires: the Pump writes the fault log and advances the
task-fault counter (R204). Its context is idle once its seal session has closed too, before or after that (R236, R418). -/
def execTerminationRetire (core : Nat) (ctx : BitVec 2) (s : State) : Out :=
  let who : Who := ⟨core, ctx.toNat⟩
  let c := s.ctx who
  match c.task, c.terminating with
  | some info, some cause =>
    if !c.counts.allZero || !(s.core core).passDone who.ctx then .next s
    else
      let s := if c.logged then s
        else
          let s := (s.modCtx who (fun x => { x with logged := true })).faultLog info.part 4 cause.toNat core c.kslot.toNat info.taskAddr
            c.taskId.toNat c.trapPc.toNat
          match info.nest with
          | none => s
          | some (serial, _, tuple) => s.endBody serial tuple none
      .next (if c.session.isSome then s else s.leaveTask who info.part)
  | _, _ => .next s

/-! ### Host launch queues (R186, R263) -/

/-- A host launch leaves its ring for the inbox of a die's Pump: its starting acquire matches what the host wrote before its doorbell write
(R178). -/
def State.hostEnter (s : State) (iface die : Nat) (l : Launch) : State :=
  let (rid, s) := s.fresh
  let s := { s with releases := ⟨rid, .outside, .fabric, (s.iface iface).doorbellVis, none⟩ :: s.releases }
  (s.modIface iface (fun x => { x with lqhead := x.lqhead + 1, lqheld := none })).modDie die (fun d => { d with
    inbox := d.inbox ++ [{ l with rels := [rid], held := none }] })

/-- A host launch finds a place in a die's share, or is held at its interface, whose queue is not advanced (R193). -/
def State.hostOffer (s : State) (iface die share : Nat) (l : Launch) : State :=
  if s.takes share l then s.hostEnter iface die { l with dest := some share }
  else
    let (l, s) := s.hold l share
    s.modIface iface (fun x => { x with lqheld := some l })

/-- HOST_LAUNCH: the Pump takes the next entry of an interface's ring, in RUN only and while its share has room; an entry that
breaks the rules is skipped and logged: its kind names the record that R249 reports (R186, R193, R265). One that is held is read once (R182),
one whose translation is awaited is taken and waits by itself, and one whose translation is denied fails (R180, R217). -/
def execHostLaunch (iface : Nat) (s : State) : Out :=
  let f := s.iface iface
  let part := f.part.toNat
  if f.tdi != 2 || !s.scheduled part || s.sourceHeld part (3, iface) then .next s
  else
    let first (l : Launch) : Nat := match l.src with
      | .hostNest _ => s.nestDie part
      | _ => f.defcore.toNat / 256
    let go (s : State) (l : Launch) : Out :=
      let die := first l
      match l.src with
      | .hostNest _ => .next (s.hostOffer iface die die l)
      | _ =>
        match s.offer die l with
        | .wait s => .next (s.hostEnter iface die l)
        | .fail _ _ s => .next ((s.modIface iface (fun x => { x with lqhead := x.lqhead + 1, lqheld := none })).launchFault l)
        | .ok c s =>
          let (l, s) := s.pickCore l c
          .next (s.hostOffer iface die (dieOf c.1) l)
    match f.lqheld with
    | some l => go s l
    | none =>
      if f.lqhead = f.lqtail then .next s
      else
        let bs := s.host.bytes (f.lqbase.toNat + 32 * (f.lqhead.toNat % 2 ^ f.lqsize.toNat)) 32
        let s := s.crossCxl iface false bs
        let kind := wordAt bs 0 % 256
        let skip (s : State) : State := s.modIface iface (fun x => { x with lqhead := x.lqhead + 1 })
        let handle := BitVec.ofNat 64 (wordAt bs 1)
        if kind != 1 && kind != 2 then .next ((skip s).faultLog part 2 0 0xFFFF f.tslot.toNat 0 0 0)
        else
          let (id, s) := s.fresh
          let l : Launch :=
            { id, src := if kind = 1 then .host iface else .hostNest iface, part, handle, arg0 := BitVec.ofNat 64 (wordAt bs 2)
              arg1 := BitVec.ofNat 64 (wordAt bs 3), tenant := f.tslot, age := (s.part part).age.toNat, rels := [], pub := none
              chosen := none, held := none, dest := none, picked := 0 }
          if wordAt bs 0 / 256 != 0 || (kind = 1 && bitsOf handle.toNat 21 11 != 0) then .next ((skip s).launchFault l)
          else go s l

/-! ### Nests (R188 to R191) -/

/-- Change a nest of a die. -/
def State.modNest (s : State) (die i : Nat) (f : Nest → Nest) : State :=
  s.modDie die (fun d => { d with nests := d.nests.modify i f })

/-- A range of a working set as a copy of global memory. -/
def stageShape (src dst len : Nat) : CopyShape :=
  { srcSpace := 4, src, dstSpace := 4, dst, len, n1 := 1, n2 := 1, fmt := 0, layout := 0, ss1 := 0, ss2 := 0, ds1 := 0, ds2 := 0
    gather := none }

/-- The engine context of a nest's staging. -/
def State.stageCtx (s : State) (die : Nat) (n : Nest) : EngCtx :=
  ⟨⟨s.firstCore n.launch.part die, 4⟩, n.launch.part, 0, [], s.acquired (.die die) .package n.rels, n.serial⟩

/-- The copy of a range. -/
def stageCmd (e : EngCtx) (sh : CopyShape) : CopyCmd :=
  { id := e.born, ctx := e.who.ctx, shape := sh, nc := false, completion := none, regs := [], fn := 0, hashKey := e.hashKey, own := e.own
    vis := e.vis, chained := none, absorb := false, input := [], done := 0, ids := [], copied := false, got := CopyGot.empty }

/-- One access of a staging: the next entry of the working-set list is read and checked, or the range under way is copied on under the rules
of a copy (R107, R191), sealed weights among them (R100). The destination must be HBM; a source that is not host memory is copied like any
other, since R191 makes no failure of it (DESIGN CHOICE, log 66). -/
def State.stageStep (s : State) (e : EngCtx) (n : Nest) : Eng Nest :=
  match n.copy with
  | none =>
    let at' := n.nrec.wsAddr + 32 * n.ranges
    (match s.pumpRead e.ask (dieOf e.who.core) e.part at' 32 with
    | .wait s => .wait s
    | .fail c v s => .fail c v s
    | .ok bs s =>
      let len := wordAt bs 2
      if bitsOf (wordAt bs 0) 56 8 != 0 || bitsOf (wordAt bs 1) 56 8 != 0 || len = 0 || len > 4294967296 || wordAt bs 3 != 0 then
        .fail 0x08 at' s
      else .ok { n with copy := some (stageCmd e (stageShape (wordAt bs 0) (wordAt bs 1) len)) } s)
  | some c =>
    if c.shape.total ≤ c.done then .ok { n with copy := none, ranges := n.ranges + 1, ids := n.ids ++ c.ids } s
    else
      match s.lookup e.ask (dieOf e.who.core) e.part (c.shape.dstAt c.done) true with
      | .hit .host _ => .fail 0x10 (c.shape.dstAt c.done) s
      | .hit (.peer _) _ => .fail 0x10 (c.shape.dstAt c.done) s
      | _ =>
        match s.copyStep e c with
        | .wait s => .wait s
        | .fail c v s => .fail c v s
        | .ok c s => .ok { n with copy := some c } s

/-- How far a staging ran: its nest with its progress, whether it waits, and whether it failed. -/
structure StageRun where
  s : State
  nest : Nest
  waits : Bool
  failed : Bool

/-- Run a staging over at most as many accesses as there is fuel, each line looked up as it is reached (R215). -/
def stageLoop (e : EngCtx) : Nat → State → Nest → StageRun
  | 0, s, n => ⟨s, n, false, false⟩
  | fuel + 1, s, n =>
    if n.nrec.wsn ≤ n.ranges then ⟨s, n, false, false⟩
    else
      match s.stageStep e n with
      | .wait s => ⟨s, n, true, false⟩
      | .fail _ _ s => ⟨s, n, false, true⟩
      | .ok n s => stageLoop e fuel s n

/-- Enough accesses for any working set: for each byte of a range a read and a write, and for each range its entry and its end. -/
def stageMost : Nat := 256 * (3 * 4294967296 + 2)

/-- The staging of nest i of a die runs over at most some accesses, once the nest's waits hold, and keeps its progress (R191, R217). -/
def State.runStaging (s : State) (die i steps : Nat) : Option StageRun :=
  match (s.die die).nests[i]? with
  | none => none
  | some n =>
    if n.staged || !n.waits.isEmpty then none
    else
      let r := stageLoop (s.stageCtx die n) steps s n
      some { r with s := r.s.modNest die i (fun _ => r.nest) }

/-- STAGING: once a nest's waits hold, the Pump copies its working set and publishes it at package scope; a failure fails the
nest (R188, R191). -/
def execStaging (die i : Nat) (s : State) : Out :=
  match s.runStaging die i stageMost with
  | none => .next s
  | some r =>
    let n := r.nest
    if r.failed then
      .next ((r.s.modDie die (fun d => { d with nests := removeAt d.nests i })).faultLog n.launch.part 2 0 0xFFFF n.launch.tenant.toNat
        n.addr n.nrec.taskNo 0)
    else if r.waits then .next r.s
    else
      let (rid, u) := (r.s.publishWrites n.ids .package (.die die)).fresh
      let u := { u with releases := ⟨rid, .die die, .package, n.ids, none⟩ :: u.releases }
      .next (u.modNest die i (fun n => { n with staged := true, rels := rid :: n.rels }))

/-- The Pump stages on, over some accesses; a failure shows in STAGING. -/
def State.stageSome (s : State) (die i steps : Nat) : State :=
  match s.runStaging die i steps with
  | some r => if r.failed then s else r.s
  | none => s

/-- The next tuple in lexicographic order (R188). -/
def nextTuple : List (Nat × Nat × Word) → List Nat → Option (List Nat)
  | (trip, _) :: ls, i :: is =>
    match nextTuple ls is with
    | some t => some (i :: t)
    | none => if i + 1 < trip then some ((i + 1) :: is.map (fun _ => 0)) else none
  | _, _ => none

/-- The mixed-radix number of a tuple's indices at the levels of a kind (R189); none where no such level exists. -/
def mixed (kind : Nat) (levels : List (Nat × Nat × Word)) (tuple : List Nat) : Option Nat :=
  (levels.zip tuple).foldl (fun (acc : Option Nat) e =>
    if e.1.2.1 = kind then some (acc.getD 0 * e.1.1 + e.2) else acc) none

/-- The core of a tuple (R189). -/
def State.tupleCore (s : State) (part : Nat) (levels : List (Nat × Nat × Word)) (tuple : List Nat) : Nat :=
  let cores := (s.part part).cores.foldl (fun acc c => insertNat c acc) []
  let dies := (cores.map dieOf).dedup
  let eligible := match mixed 2 levels tuple with
    | none => cores
    | some d => cores.filter (fun c => dieOf c = dies.getD (d % max 1 dies.length) 0)
  match mixed 1 levels tuple with
  | none => eligible.headD 0
  | some c => eligible.getD (c % max 1 eligible.length) 0

/-- NEST_WALK: the walker places its next tuple, pauses where the share it needs is full, or passes over a body whose launch
fails (R188 to R190, R193). -/
def execNestWalk (die i : Nat) (s : State) : Out :=
  match (s.die die).nests[i]? with
  | none => .next s
  | some n =>
    match n.next with
    | none => .next s
    | some tuple =>
      let part := n.launch.part
      if !n.staged || !s.scheduled part then .next s
      else
        let go (x : Nest) : Nest := { x with next := nextTuple x.nrec.levels tuple, paused := none }
        match s.readTask (.pump n.serial) die part n.nrec.taskNo n.launch.tenant with
        | .wait s => .next s
        | .fail _ _ s =>
          let s := s.faultLog part 2 0 0xFFFF n.launch.tenant.toNat (s.taskAddr part n.nrec.taskNo) n.nrec.taskNo 0
          .next ((s.modNest die i go).releaseBodies n.serial)
        | .ok r s =>
          let core := s.tupleCore part n.nrec.levels tuple
          let l : Launch :=
            { n.launch with src := .nest n.serial tuple, handle := BitVec.ofNat 64 n.nrec.taskNo, rels := n.rels
                            age := (s.part part).age.toNat, pub := none, chosen := none, held := n.paused, dest := none, picked := 0 }
          if !s.inTurn die (dieOf core) l then .next s
          else if !s.takes (dieOf core) l then
            let (l, s) := s.hold l (dieOf core)
            .next (s.modNest die i (fun x => { x with paused := l.held }))
          else
            let s := s.modNest die i (fun x => { go x with live := x.live ++ [tuple] })
            .next (s.acceptTask die core n.nrec.prio { l with held := none } r [])

/-- NEST_RETIRE: a nest whose last task has ended retires: its Pump advances its counter at SCOPE and releases the staged pages
(R190). An advance that would overflow is logged with the address of the nest record, since no task's END made it (DESIGN CHOICE, log 32). -/
def execNestRetire (die i : Nat) (s : State) : Out :=
  match (s.die die).nests[i]? with
  | none => .next s
  | some n =>
    if !n.staged || n.next.isSome || !n.live.isEmpty then .next s
    else
      let s := s.modDie die (fun d => { d with nests := removeAt d.nests i })
      if !n.nrec.cv then .next s
      else
        let sc := Scope.ofCode n.nrec.scope
        let ids := s.acquired (.die die) sc (n.taskRels.map Prod.snd)
        let (rid, s) := s.fresh
        let s := { s with releases := ⟨rid, .die die, sc, ids, none⟩ :: s.releases }
        match s.ctrAdvance (.cistern n.nrec.cdie n.nrec.cindex) 1 rid with
        | some s => .next s
        | none => .next (s.faultLog n.launch.part 5 0x12 0xFFFF n.launch.tenant.toNat n.addr n.nrec.taskNo 0)

end Sys2Proof.Machine
end

