-- ==== Sys2Proof/Machine/Scalar.lean ====
section
/-! DEFINITION. The S-class syllables (R294, R295, R310, R317, R318, R329, R337, R338, R353, R358, R400). -/

namespace Sys2Proof.Machine

/-! ### Functions -/

/-- Number of consecutive zero bits from bit 63 down (R294). -/
def clz64 (x : Word) : Word := BitVec.ofNat 64 (if x = 0 then 64 else 63 - Nat.log2 x.toNat)

/-- Number of bits that are 1 (R318). -/
def popc64 (x : Word) : Word := BitVec.ofNat 64 ((List.range 64).filter (fun i => x.getLsbD i)).length

/-- The upper half of the exact product (R318). -/
def mulh64 (u : Bool) (x y : Word) : Word :=
  if u then BitVec.ofNat 64 (x.toNat * y.toNat / 2 ^ 64) else BitVec.ofInt 64 (x.toInt * y.toInt / (2 ^ 64 : Nat))

/-- Quotient truncated toward zero; all ones for a zero divisor (R318). -/
def div64 (u : Bool) (x y : Word) : Word :=
  if y = 0 then BitVec.allOnes 64 else if u then x / y else BitVec.ofInt 64 (x.toInt.tdiv y.toInt)

/-- Remainder with the sign of the dividend; the dividend for a zero divisor (R318). -/
def rem64 (u : Bool) (x y : Word) : Word :=
  if y = 0 then x else if u then x % y else BitVec.ofInt 64 (x.toInt.tmod y.toInt)

/-- x ≤ y as s64 or n64. -/
def le64 (u : Bool) (x y : Word) : Bool := if u then x.toNat ≤ y.toNat else x.toInt ≤ y.toInt

/-- Arithmetic shift right. -/
def shra64 (x : Word) (n : Nat) : Word := x.sshiftRight n

/-- The condition of CMP and CMPI (R310) on operands of 64 bits, or on their low 32 bits. -/
def cmpCond (c : BitVec 4) (z : BitVec 3) (x y : Word) : Bool :=
  let u := if z = 1 then x.toNat % 2 ^ 32 else x.toNat
  let v := if z = 1 then y.toNat % 2 ^ 32 else y.toNat
  let i : Int := if z = 1 then (x.setWidth 32).toInt else x.toInt
  let j : Int := if z = 1 then (y.setWidth 32).toInt else y.toInt
  match c.toNat with
  | 0 => u = v
  | 1 => u != v
  | 2 => i < j
  | 3 => j ≤ i
  | 4 => u < v
  | 5 => v ≤ u
  | 6 => u &&& v != 0
  | _ => u &&& v = 0

/-- The function of PLOG (R338). -/
def plogFn (c : BitVec 4) (a b : Bool) : Bool :=
  match c.toNat with
  | 0 => a && b
  | 1 => a || b
  | 2 => a != b
  | 3 => a && !b
  | 4 => a || !b
  | 5 => !(a && b)
  | 6 => !(a || b)
  | _ => a = b

/-! ### Meanings -/

/-- ADD (R294). -/
def execAdd (gd : Guard) (d a b : BitVec 5) (s : State) : Out := s.scalar2 gd 1 d a b (fun x y => x + y)
/-- AND (R294). -/
def execAnd (gd : Guard) (d a b : BitVec 5) (s : State) : Out := s.scalar2 gd 1 d a b (fun x y => x &&& y)
/-- ANDN (R294). -/
def execAndn (gd : Guard) (d a b : BitVec 5) (s : State) : Out := s.scalar2 gd 1 d a b (fun x y => x &&& ~~~y)
/-- CLZ (R294). -/
def execClz (gd : Guard) (d a : BitVec 5) (s : State) : Out := s.scalar1 gd 1 d a clz64
/-- ADDI (R295). -/
def execAddi (gd : Guard) (d a : BitVec 5) (i : BitVec 10) (x : Option (BitVec 20)) (s : State) : Out :=
  s.scalar1 gd 1 d a (fun v => v + imm10 i x)
/-- ANDI (R295). -/
def execAndi (gd : Guard) (d a : BitVec 5) (i : BitVec 10) (x : Option (BitVec 20)) (s : State) : Out :=
  s.scalar1 gd 1 d a (fun v => v &&& imm10 i x)
/-- ORI (R337). -/
def execOri (gd : Guard) (d a : BitVec 5) (i : BitVec 10) (x : Option (BitVec 20)) (s : State) : Out :=
  s.scalar1 gd 1 d a (fun v => v ||| imm10 i x)
/-- OR (R318). -/
def execOr (gd : Guard) (d a b : BitVec 5) (s : State) : Out := s.scalar2 gd 1 d a b (fun x y => x ||| y)
/-- XOR (R400). -/
def execXor (gd : Guard) (d a b : BitVec 5) (s : State) : Out := s.scalar2 gd 1 d a b (fun x y => x ^^^ y)
/-- SUB (R353). -/
def execSub (gd : Guard) (d a b : BitVec 5) (s : State) : Out := s.scalar2 gd 1 d a b (fun x y => x - y)
/-- MUL (R318): L = 3. -/
def execMul (gd : Guard) (d a b : BitVec 5) (s : State) : Out := s.scalar2 gd 3 d a b (fun x y => x * y)
/-- MULH (R318). -/
def execMulh (gd : Guard) (d a b : BitVec 5) (u : Bool) (s : State) : Out := s.scalar2 gd 3 d a b (mulh64 u)
/-- DIV (R318): L = 20. -/
def execDiv (gd : Guard) (d a b : BitVec 5) (u : Bool) (s : State) : Out := s.scalar2 gd 20 d a b (div64 u)
/-- REM (R318). -/
def execRem (gd : Guard) (d a b : BitVec 5) (u : Bool) (s : State) : Out := s.scalar2 gd 20 d a b (rem64 u)
/-- MIN (R318). -/
def execMin (gd : Guard) (d a b : BitVec 5) (u : Bool) (s : State) : Out :=
  s.scalar2 gd 1 d a b (fun x y => if le64 u x y then x else y)
/-- MAX (R318). -/
def execMax (gd : Guard) (d a b : BitVec 5) (u : Bool) (s : State) : Out :=
  s.scalar2 gd 1 d a b (fun x y => if le64 u y x then x else y)
/-- POPC (R318). -/
def execPopc (gd : Guard) (d a : BitVec 5) (s : State) : Out := s.scalar1 gd 1 d a popc64
/-- SHL (R353): the amount is taken modulo 64. -/
def execShl (gd : Guard) (d a b : BitVec 5) (s : State) : Out :=
  s.scalar2 gd 1 d a b (fun x y => x <<< (y.toNat % 64))
/-- SHR (R353). -/
def execShr (gd : Guard) (d a b : BitVec 5) (s : State) : Out :=
  s.scalar2 gd 1 d a b (fun x y => x >>> (y.toNat % 64))
/-- SHRA (R353). -/
def execShra (gd : Guard) (d a b : BitVec 5) (s : State) : Out :=
  s.scalar2 gd 1 d a b (fun x y => shra64 x (y.toNat % 64))
/-- SEL (R353): the predicate is a data source and counts in the result's sensitivity. -/
def execSel (gd : Guard) (d a b : BitVec 5) (q : BitVec 3) (s : State) : Out :=
  s.guarded gd fun s =>
    let p := s.cur.readP q
    .next (s.pushG 1 d (if p.val then s.gw a else s.gw b) (((s.gsens a).max (s.gsens b)).max p.sens))
/-- SHLI (R358). -/
def execShli (gd : Guard) (d a : BitVec 5) (h : BitVec 6) (_x : Option (BitVec 20)) (s : State) : Out :=
  s.scalar1 gd 1 d a (fun v => v <<< h.toNat)
/-- SHRI (R358). -/
def execShri (gd : Guard) (d a : BitVec 5) (r : Bool) (h : BitVec 6) (_x : Option (BitVec 20)) (s : State) : Out :=
  s.scalar1 gd 1 d a (fun v => if r then shra64 v h.toNat else v >>> h.toNat)
/-- LI (R329): the constant is PUB. -/
def execLi (gd : Guard) (d : BitVec 5) (i : BitVec 15) (x : Option (BitVec 20)) (s : State) : Out :=
  s.guarded gd fun s => .next (s.pushG 1 d (imm15 i x) .pub)
/-- LIH (R329): bits 63:29 from the immediate, bits 28:0 kept. -/
def execLih (gd : Guard) (d : BitVec 5) (i : BitVec 15) (x : Option (BitVec 20)) (s : State) : Out :=
  s.scalar1 gd 1 d d (fun v => (imm15 i x <<< 29) ||| (v &&& 0x1FFFFFFF#64))
/-- CMP (R310). -/
def execCmp (gd : Guard) (d : BitVec 3) (a b : BitVec 5) (c : BitVec 4) (z : BitVec 3) (s : State) : Out :=
  s.guarded gd fun s => .next (s.pushP 1 d (cmpCond c z (s.gw a) (s.gw b)) ((s.gsens a).max (s.gsens b)))
/-- CMPI (R310). -/
def execCmpi (gd : Guard) (d : BitVec 3) (a i : BitVec 5) (c : BitVec 4) (z : BitVec 3) (s : State) : Out :=
  s.guarded gd fun s => .next (s.pushP 1 d (cmpCond c z (s.gw a) (i.signExtend 64)) (s.gsens a))
/-- PLOG (R338). -/
def execPlog (gd : Guard) (d a b : BitVec 3) (c : BitVec 4) (s : State) : Out :=
  s.guarded gd fun s =>
    let x := s.cur.readP a
    let y := s.cur.readP b
    .next (s.pushP 1 d (plogFn c x.val y.val) (x.sens.max y.sens))
/-- LIMM (R331): no operation of its own. -/
def execLimm (_l : BitVec 20) (s : State) : Out := .next s

end Sys2Proof.Machine
end

