-- ==== Sys2Proof/Machine/Cycle.lean ====
section
/-! DEFINITION. Fetching and decoding a bundle, guards and nullification, readiness and switching, the current limiter and the
freezes (R19 to R40, R96, R281, R282). -/

namespace Sys2Proof.Machine

/-! ### Fetch (R281, R282) -/

/-- What fetching a bundle comes to. -/
inductive Fetch where
  | ok (words : List Nat)
  | block (m : Miss)
  | trap (cause : BitVec 8) (val : Word)

/-- Fetch syllables until one has S = 1 or eight are read; each is translated as a load (R282). -/
def fetchLoop (s : State) (w : Who) (part : Nat) : Nat → Nat → List Nat → Fetch
  | 0, _, acc => .ok acc
  | fuel + 1, va, acc =>
    match s.reach w part .fetch .pub va with
    | .block m => .block m
    | .trap c v => .trap c v
    | .ok p a _ =>
      if !s.rangeOk p a 4 then .trap 0x0F (BitVec.ofNat 64 va)
      else
        let x := leNat (s.homeBytes p a 4)
        if flag x 31 then .ok (acc ++ [x]) else fetchLoop s w part fuel (va + 4) (acc ++ [x])

/-- Fetch the bundle at the pc of a context. -/
def State.fetchBundle (s : State) (w : Who) : Fetch :=
  fetchLoop s w (s.ctx w).part 8 (s.ctx w).pc.toNat []

/-- The instruction-cache lines of a bundle of n words, each with its partition. -/
def cacheLines (part va n : Nat) : List (Nat × Nat) :=
  (List.range ((va + 4 * n + 63) / 64 - va / 64)).map (fun i => (part, va / 64 + i))

/-- The cache holds the bundle. What a line holds is always what its home holds: only frozen cycles tell a hit from a miss
(R22). -/
def State.cacheHit (s : State) (w : Who) (n : Nat) : Bool :=
  (cacheLines (s.ctx w).part (s.ctx w).pc.toNat n).all (fun l => (s.core w.core).icache.contains l)

/-- Bring the lines of a bundle in; the cache holds 64 KiB. -/
def State.cacheFill (s : State) (w : Who) (n : Nat) : State :=
  let new := (cacheLines (s.ctx w).part (s.ctx w).pc.toNat n).filter (fun l => !(s.core w.core).icache.contains l)
  s.modCore w.core (fun k => { k with icache := (new ++ k.icache).take 1024 })

/-! ### Guards and nullification (R28, R29) -/

/-- The guard of a slot is true; the X syllable of a CPYX is governed by the CPYX's guard (R169), a LIMM has none. -/
def slotTrue (c : Ctx) (sl : Slot) : Bool := c.guardTrue sl.instr.guard

/-- The CPYX of a bundle. -/
def cpyxOf (slots : List Slot) : Option Slot := slots.find? (fun sl => match sl.instr with
  | .cpyx .. => true
  | _ => false)

/-- The slot is executed by itself: a LIMM extends its neighbour, and the X syllable of a CPYX is carried by it. -/
def slotAlone (slots : List Slot) (sl : Slot) : Bool :=
  match sl.instr with
  | .limm _ => false
  | _ => !((cpyxOf slots).isSome && slotClass (fld sl.word 20 7) = .x)

/-- Predicates whose variable-latency return is outstanding (R29), whether it will be written or discarded. -/
def Ctx.pendingPreds (c : Ctx) : List (BitVec 3) :=
  c.ops.flatMap (fun o => o.kind.dests.filterMap (fun d => match d with
    | .p r => some r
    | _ => none))

/-- A bundle is nullified (R29): all guards false and final, no pending report. The fetch unit looks one cycle before, so
the latch file must have been empty in the cycle before too. -/
def Ctx.nullifies (c : Ctx) (slots : List Slot) : Bool :=
  let gs := (slots.filter (slotAlone slots)).map (fun sl => sl.instr.guard)
  gs.all (fun g => !c.guardTrue g) && c.latch.isEmpty && !c.latchBusy && c.reports.isEmpty &&
  gs.all (fun g => !c.pendingPreds.contains g.pg)

/-! ### Readiness (R30 to R33) -/

/-- The reason of a block has ended (R30). -/
def State.blockEnded (s : State) (w : Who) : Block → Bool
  | .cwait _ h v => (s.ctx w).woken = some (h, v)
  | .waitn l => (s.ctx w).withinLimits l
  | .cap cls n => (s.ctx w).counts.get cls + n ≤ cls.cap
  | .lines keys => s.heldLines w keys ≤ 192
  | .queue .array => (s.core w.core).queue.length < 8
  | .queue (.channel n) => ((s.core w.core).chan n).length < 8
  | .queue .sweep => (s.core w.core).sweeps.length < 16
  | .arrayOwned => !(s.core w.core).ownedByOther w.ctx
  | .shutter => !(s.core w.core).shutterBusy
  | .asyncPass => !(s.core w.core).asyncPass
  | .scrub => (s.core w.core).scrubReady w.ctx
  | .translation ms => ms.all (fun m => match s.lookup (.slot w) (dieOf w.core) m.pasid (4096 * m.page) m.write with
    | .miss _ => false
    | _ => true)

/-- A report or a failed parameter copy that the next bundle raises (R62, R199). -/
def Ctx.raises (c : Ctx) : Bool := !c.priv && (!c.reports.isEmpty || c.startFault.isSome)

/-- A context is ready (R17, R30). -/
def State.ready (s : State) (w : Who) : Bool :=
  let c := s.ctx w
  c.task.isSome && c.terminating.isNone && (c.raises || (c.ending.isNone && c.blocks.all (s.blockEnded w)))

/-- The first ready context in the order after the one from which the core last issued, which comes last itself (R32). -/
def State.pick (s : State) (core : Nat) : Option Nat :=
  ([1, 2, 3, 4].map (fun i => ((s.core core).last + i) % 4)).find? (fun y => s.ready ⟨core, y⟩)

/-- The context that the core stands at: its bundle, bubble or stall is the one that the core's next cycle is for. -/
def State.served (s : State) (core : Nat) : Who := ⟨core, (s.core core).serving % 4⟩

/-- The context from which the core last issued: a cycle in which nothing can issue counts for it (R32, R40). -/
def State.lastIssued (s : State) (core : Nat) : Who := ⟨core, (s.core core).last % 4⟩

/-! ### What passes in a cycle (R20, R34, R39, R149, R155) -/

/-- What the array and the Shutter do in a core cycle that is not frozen as a whole; `k` is the core as the cycle began. Passes of a
context that had issued its END by then advance (R34); the queue streams where no lock-step pass was in flight then (R154). -/
def State.coreTick (s : State) (core : Nat) (k : Core) : State :=
  let s := s.tickPasses core (fun p => (k.ctx p.ctx).spent)
  let s := if k.queue.isEmpty || (!k.passes.isEmpty && k.asyncHead) then s else s.tickQueue core
  { s.tickShutter core with wall := s.wall + 1 }

/-- An active cycle of a context (R18, R20, R34): ACYC and BUDGET in task mode, its latch file, its passes; in a trap handler the
passes of the handler alone (R201). -/
def State.activeTick (s : State) (w : Who) (priv : Bool) : State :=
  let s := if priv then s
    else (s.modCtx w (fun c => { c with acyc := c.acyc + 1, budget := if c.budget = 0 then 0 else c.budget - 1 })).perfWho w 0 1
  let s := s.modCtx w Ctx.tickLatch
  s.tickPasses w.core (fun p => p.advancesIn w.ctx priv)

/-- Weights of the syllables of a bundle (R39). -/
def syllableWeight (word : Nat) : Nat :=
  match slotClass (fld word 20 7) with
  | .limm => 0
  | .b | .y => 1
  | .s | .x | .f | .c => 2
  | .m => 4
  | .v => 8

def bundleWeight (words : List Nat) : Nat := words.foldl (fun n w => n + syllableWeight w) 0

/-- The weight of the array and the Shutter in the next cycle; `active` is the context whose active cycle it is. -/
def Core.engineWeight (k : Core) (active : Option Nat) : Nat :=
  let pass := k.passes.any (fun p => p.streams && ((k.ctx p.ctx).spent || active.any (fun x => p.advancesIn x (k.ctx x).priv)))
  (if pass || k.asyncStreams then 48 else 0) + (if k.shutterTransfers then 6 else 0)

/-- The limiter freezes a cycle of a weight (R40). -/
def Core.limited (k : Core) (w : Nat) : Bool := max 128 k.pwrlim.toNat < (k.weights.take 31).foldl (· + ·) 0 + w

/-- A cycle of a core passes: its weight enters the window. -/
def State.weigh (s : State) (core w : Nat) : State :=
  s.modCore core (fun k => { k with weights := (w :: k.weights).take 31, clock := k.clock + 1 })

/-- A freeze cycle of the limiter (R40): counted in FRZ of the context served, if it holds a task. -/
def State.freezeCycle (s : State) (w : Who) : State :=
  let s := { s.weigh w.core 0 with wall := s.wall + 1 }
  if (s.ctx w).task.isSome then (s.modCtx w (fun c => { c with frz := c.frz + 1 })).perfWho w 1 1 else s

/-- A bank-conflict cycle (R96), counted in BANKSTALL of the issuing context, or a freeze of the limiter in its place (R40); `f` records
what the banks make of it. -/
def State.bankCycle (s : State) (w : Who) (f : State → State) : State :=
  if (s.core w.core).limited 0 then s.freezeCycle w
  else
    let s := { (f s).weigh w.core 0 with wall := s.wall + 1 }
    (s.modCtx w (fun c => { c with bankStall := c.bankStall + 1 })).perfWho w 2 1

/-- S-space banks that a syllable of the context reaches in its issue cycle (R94, R96): those of a PROBE are its entries' one or two
lines (R340); VLDS and VGTH reach theirs later (R379). -/
def State.slotBanks (s : State) (w : Who) (i : Instr) : List Nat :=
  let c := s.ctx w
  let bank (a : Word) : Nat := sBank (s.sPhys w.core c.part c.hashKey a.toNat)
  let addr (ad : Word) : List Nat := if bitsOf ad.toNat 61 3 = 3 then [bank (BitVec.ofNat 64 (bitsOf ad.toNat 0 56))] else []
  let elementBanks (r b : BitVec 5) (t : Tag) : List Nat :=
    ((List.range (min (2048 / tagBits t) 64)).filter (fun n => maskBit (c.readM 0).val (tagBits t) n)).map (fun n =>
      bank (c.gv b + BitVec.ofNat 64 ((c.fileV (r + 1)).lane 32 n * (tagBits t / 8))))
  match i with
  | .ld _ _ b sp z o => if sp = 3 then [bank (c.gv b + BitVec.ofNat 64 (o.toNat * 2 ^ z.toNat))] else []
  | .st _ _ b sp z o => if sp = 3 then [bank (c.gv b + BitVec.ofNat 64 (o.toNat * 2 ^ z.toNat))] else []
  | .vld _ _ b sp _ _ o => if sp = 3 then [bank (c.gv b + BitVec.ofNat 64 (o.toNat * 256))] else []
  | .vst _ _ b sp _ _ o => if sp = 3 then [bank (c.gv b + BitVec.ofNat 64 (o.toNat * 256))] else []
  | .vsct _ r b sp t => if sp = 3 then (elementBanks r b t).dedup else []
  | .probe _ _ b d _ =>
    let h := probeHash (bitsOf (c.gv b).toNat 8 48)
    let line (i : Nat) : Nat := bitsOf (c.gv d).toNat 0 22 + (h + i) % 1024 * 8 / 256 * 256
    ([line 0, line 7].dedup).map (fun a => bank (BitVec.ofNat 64 a))
  | .amo _ _ a .. => addr (c.gv a)
  | .cas _ _ a .. => addr (c.gv a)
  | .red _ _ a .. => addr (c.gv a)
  | _ => []

/-- The banks of the syllables of a bundle whose guards are true. -/
def State.bundleBanks (s : State) (w : Who) (slots : List Slot) : List Nat :=
  (slots.filter (fun sl => slotAlone slots sl && slotTrue (s.ctx w) sl)).flatMap (fun sl => s.slotBanks w sl.instr)

/-- A PROBE of a bundle whose guard is true is not accepted at its banks yet. -/
def State.bundleHeld (s : State) (w : Who) (slots : List Slot) : Bool :=
  let c := s.ctx w
  (slots.filter (fun sl => slotAlone slots sl && slotTrue c sl)).any (fun sl => match sl.instr with
    | .probe _ _ b d _ => s.probeHeld w (bitsOf (c.gv b).toNat 8 48) (bitsOf (c.gv d).toNat 0 22)
    | _ => false)

/-! ### The bank ports (R96) -/

/-- A core's rank in a cycle: the cores of a cluster are ranked from core (cycle mod 16) upwards (R96). -/
def bankRank (n core : Nat) : Nat := (core % 16 + 16 - n % 16) % 16

/-- The cycle in which a core presents its accesses. The cores' clocks are their own (log 28): a bundle is presented no earlier than the
latest cycle in which its cluster's banks have accepted anything, and one that has lost a cycle in each cycle after it. -/
def State.bankTime (s : State) (core : Nat) : Nat :=
  let k := s.core core
  if k.bankTried then k.clock else ((s.cluster (clusterOf core)).taken.map Prod.fst).foldl max k.clock

/-- The cycle in which every one of a core's accesses is accepted by its bank; none where a core of a higher rank has one of those banks in
the cycle in which they are presented (R96). -/
def State.bankTurn (s : State) (core : Nat) (banks : List Nat) : Option Nat :=
  let n := s.bankTime core
  let rivals := (s.cluster (clusterOf core)).taken.filter (fun e => e.2.1 != core && banks.contains e.2.2)
  if rivals.any (fun e => e.1 = n && bankRank n e.2.1 < bankRank n core) then none
  else if rivals.any (fun e => e.1 = n) then some ((rivals.map Prod.fst).foldl max n + 1)
  else some n

/-- The earliest cycle in which a core of a cluster that has lost one may still present its accesses, at most n. -/
def State.bankFloor (s : State) (cl n : Nat) : Nat :=
  ((List.range 16).map (fun i => s.core (16 * cl + i))).foldl (fun m k => if k.bankTried then min m k.clock else m) n

/-- Banks accept a core's accesses in cycle n, which becomes the core's own. -/
def State.takeBanks (s : State) (core n : Nat) (banks : List Nat) : State :=
  let cl := clusterOf core
  let s := s.modCore core (fun k => { k with clock := n })
  let floor := s.bankFloor cl n
  s.modCluster cl (fun c => { c with taken := banks.dedup.map (fun b => (n, core, b)) ++ c.taken.filter (fun e => floor ≤ e.1) })

/-- A bundle loses a cycle to another core: the banks that are free then accept its accesses all the same (R96). -/
def State.loseBanks (s : State) (core : Nat) (banks : List Nat) : State :=
  let n := s.bankTime core
  let busy := (s.cluster (clusterOf core)).taken.filter (fun e => e.1 = n)
  (s.modCore core (fun k => { k with bankTried := true })).takeBanks core n
    (banks.filter (fun b => !busy.any (fun e => e.2.2 = b)))

/-- What the banks make of a bundle in its next cycle (R96): a cycle lost to a core of a higher rank or to a pair of its own accesses, or the
cycle in which they accept all of them. -/
inductive BankTurn where
  | lost (s : State)
  | taken (n : Nat)

def State.tryBanks (s : State) (w : Who) (banks : List Nat) : BankTurn :=
  if banks.isEmpty then .taken (s.core w.core).clock
  else
    match s.bankTurn w.core banks with
    | none => .lost (s.bankCycle w (fun s => s.loseBanks w.core banks))
    | some n =>
      if !decide banks.Nodup && !(s.core w.core).bankLost then
        .lost (s.bankCycle w (fun s => (s.takeBanks w.core n banks).modCore w.core (fun k => { k with bankLost := true })))
      else .taken n

/-! ### The events of a core's cycles -/

/-- The next bundle of a context as fetch and decode give it. -/
def State.nextSlots (s : State) (w : Who) : Option (List Nat × List Slot) :=
  match s.fetchBundle w with
  | .ok ws =>
    (match decodeBundle ws with
    | .ok slots => some (ws, slots)
    | .error _ => none)
  | _ => none

/-- Skip a nullified bundle: no active cycle, no BUDGET (R29). -/
def State.nullify (s : State) (w : Who) (n : Nat) : State :=
  (s.modCtx w (fun c => { c with pc := c.pc + 4 * BitVec.ofNat 64 n, scrubs := false })).perfWho w 5 1

/-- NULLIFIED_BUNDLE: the served context's next bundle is skipped, where R29 holds. -/
def execNullifiedBundle (core : Nat) (s : State) : Out := s.onClock core fun s =>
  let w := s.served core
  if !s.ready w || (s.ctx w).raises || (s.ctx w).bubbles != 0 || (s.core core).switching.isSome then .next s
  else
    match s.nextSlots w with
    | some (ws, slots) => if s.cacheHit w ws.length && (s.ctx w).nullifies slots then .next (s.nullify w ws.length) else .next s
    | none => .next s

/-- The switch to a context begins: three switch cycles, this one among them (R32). -/
def State.startSwitch (s : State) (core y : Nat) : State := s.modCore core (fun k => { k with switching := some (y, 2) })

/-- A context whose block has ended resumes: its bundle is examined afresh, and blocks anew if it still cannot issue (R30, R31). -/
def State.retry (s : State) (w : Who) : State := s.modCtx w (fun c => { c with block := none })

/-- The core stands at a context. -/
def State.serve (s : State) (core y : Nat) : State := s.modCore core (fun k => { k with serving := y })

/-- A switch cycle passes; after the last one the core stands at the incoming context. -/
def State.switchCycle (s : State) (core : Nat) : State :=
  match (s.core core).switching with
  | none => s
  | some (y, n) =>
    if n ≤ 1 then (s.modCore core (fun k => { k with switching := none, serving := y })).retry ⟨core, y⟩
    else s.modCore core (fun k => { k with switching := some (y, n - 1) })

/-- A cycle that is active for no context: what the engines of the core do in it (R22, R39). -/
def State.enginePass (s : State) (core : Nat) : State := (s.weigh core ((s.core core).engineWeight none)).coreTick core (s.core core)

/-- The freeze cycles that the limiter puts before a switch cycle (R40), at most 31: they count for the incoming context. -/
def State.thaw (s : State) (core y : Nat) : Nat → State
  | 0 => s
  | n + 1 => if (s.core core).limited ((s.core core).engineWeight none) then (s.freezeCycle ⟨core, y⟩).thaw core y n else s

/-- CONTEXT_SWITCH: where the served context cannot issue, does not own the array and another is ready, the core switches: three
cycles that are active for no context, each after the freezes of the limiter (R32, R35, R40). -/
def execContextSwitch (core : Nat) (s : State) : Out := s.onClock core fun s =>
  let w := s.served core
  if s.ready w || (s.ctx w).bubbles != 0 || (s.core core).ownsForwarding w.ctx || (s.core core).switching.isSome then .next s
  else
    match s.pick core with
    | none => .next s
    | some y =>
      if y = (s.core core).last % 4 then .next s
      else
      let pass (s : State) : State := (s.thaw core y 31).enginePass core
      .next (((pass (pass (pass ((s.startSwitch core y).perfWho w 6 1)))).switchCycle core).switchCycle core)

/-- The weight of the cycle that a core is about to perform, as its next bundle gives it. -/
def State.nextWeight (s : State) (core : Nat) : Nat :=
  let w := s.served core
  let k := s.core core
  if k.switching.isSome || !s.ready w then k.engineWeight none
  else if (s.ctx w).bubbles != 0 then k.engineWeight (some w.ctx)
  else
    match s.nextSlots w with
    | some (ws, _) => bundleWeight ws + k.engineWeight (some w.ctx)
    | none => k.engineWeight none

/-- The context that a freeze cycle is counted for (R40): the incoming one in a switch, the served one where the cycle is its bundle's, its
bubble's or its stall's, else the one from which the core last issued. -/
def State.frozenFor (s : State) (core : Nat) : Who :=
  let w := s.served core
  match (s.core core).switching with
  | some (y, _) => ⟨core, y⟩
  | none =>
    if s.ready w || (s.ctx w).bubbles != 0 || (s.core core).ownsForwarding w.ctx then w else s.lastIssued core

/-- LIMITER_FREEZE: a freeze cycle, where the window's limit would be exceeded (R40). -/
def execLimiterFreeze (core : Nat) (s : State) : Out := s.onClock core fun s =>
  if (s.core core).limited (s.nextWeight core) then .next (s.freezeCycle (s.frozenFor core)) else .next s

/-- BANK_CONFLICT_FREEZE: the served context's next bundle loses a cycle at its banks, to a core of a higher rank or to a pair of its own
accesses (R96). The event comes about only where that bundle is ready: it would neither block, trap nor be fetched (State.mayOccur). -/
def execBankConflictFreeze (core : Nat) (s : State) : Out := s.onClock core fun s =>
  let w := s.served core
  let c := s.ctx w
  if !s.ready w || c.raises || c.block.isSome || c.bubbles != 0 || (s.core core).switching.isSome then .next s
  else
    match s.nextSlots w with
    | some (_, slots) =>
      (match s.tryBanks w (s.bundleBanks w slots) with
      | .lost t => .next t
      | .taken _ => .next s)
    | none => .next s

/-- The homes of the lines of a bundle that the cache does not hold. -/
def State.fetchHomes (s : State) (w : Who) (n : Nat) : List (Place × Nat) :=
  let c := s.ctx w
  ((cacheLines c.part c.pc.toNat n).filter (fun l => !(s.core w.core).icache.contains l)).filterMap (fun l =>
    match s.reach w c.part .fetch .pub (64 * l.2) with
    | .ok p a _ => some (p, a)
    | _ => none)

/-- A fetch from another die or package travels on its context's flow and follows what was sent before it (R136, R267). -/
def State.fetchWaits (s : State) (w : Who) (n : Nat) : Bool :=
  !(s.fetchHomes w n).all (fun h => s.mayTravel w (s.ctx w).part (s.destOf w h.1 h.2))

/-- A line is fetched from its home, over what lies between (R136, R222). -/
def State.fetchLine (s : State) (w : Who) (p : Place) (a : Nat) : State :=
  let part := (s.ctx w).part
  (s.sendTo w part p a []).carry part (dieOf w.core) p a false (s.homeBytes p a 64)

/-- The lines of a bundle are read at their homes (R264). -/
def State.fetchLines (s : State) (w : Who) (n : Nat) : State :=
  let hs := s.fetchHomes w n
  (hs.foldl (fun (u : State) h => u.fetchLine w h.1 h.2) (s.cacheFill w n)).perfWho w 16
    (hs.filter (fun h => h.1 = .hbm)).length

/-- A cycle in which the core is frozen while a bundle is fetched (R22), or a freeze of the limiter in its place (R40). The fetch takes its
turn on its flows. -/
def State.fetchCycle (s : State) (w : Who) (n : Nat) : State :=
  if s.fetchWaits w n then s
  else if (s.core w.core).limited ((s.core w.core).engineWeight none) then s.freezeCycle w
  else (s.fetchLines w n).enginePass w.core

/-- INSTRUCTION_FETCH: the served context's next bundle misses the instruction cache; the core freezes and fetches it (R22,
R282). -/
def execInstructionFetch (core : Nat) (s : State) : Out := s.onClock core fun s =>
  let w := s.served core
  if !s.ready w || (s.core core).switching.isSome then .next s
  else
    match s.fetchBundle w with
    | .ok ws => if s.cacheHit w ws.length then .next s else .next (s.fetchCycle w ws.length)
    | _ => .next s

/-- ILLEGAL_ENCODING: a syllable that is no instruction, with the LIMM that extends it, raises cause 0x01 (R197, R284). -/
def execIllegalEncoding (w : Syllable) (l : Option Syllable) (s : State) : Out :=
  s.raise 0x01 (BitVec.ofNat 64 (w.toNat + (l.map (fun x => x.toNat)).getD 0 * 2 ^ 32))

end Sys2Proof.Machine
end

