-- ==== Sys2Proof/Machine/HostPages.lean ====
section
/-! DEFINITION. What the host does to virtual interfaces: register pages, doorbells, events and TDISP states (R244, R256, R257,
R262 to R266, R272). -/

namespace Sys2Proof.Machine

/-! ### Interface states (R256, R265, R272) -/

/-- Count discarded events; the count saturates (R257). -/
def Iface.discardN (f : Iface) (n : Nat) : Iface := { f with stale := BitVec.ofNat 32 (min 4294967295 (f.stale.toNat + n)) }

/-- Count a discarded event. -/
def Iface.discard (f : Iface) : Iface := f.discardN 1

/-- The pending events are checked again: those stamped with GEN are delivered in ascending vector order, each vector once, and the others are
discarded and counted (R257). -/
def Iface.deliverPending (f : Iface) : Iface :=
  { f.discardN (f.pending.filter (fun e => e.2 != f.gen)).length with
    delivered := f.delivered ++ unionNat ((f.pending.filter (fun e => e.2 = f.gen)).map Prod.fst) [], pending := [] }

/-- Everything that is held is discarded and counted. -/
def Iface.dropPending (f : Iface) : Iface := { f.discardN f.pending.length with pending := [] }

/-- The interface enters ERROR: what it holds is discarded and counted, and no ring entry is taken on its behalf (R265). -/
def Iface.fail (f : Iface) : Iface := { f.dropPending with tdi := 3, lqheld := none }

/-- Events reach the host: STATE is run and the TDISP state is RUN (R257, R265). -/
def Iface.delivers (f : Iface) : Bool := f.st = 1 && f.tdi = 2

/-- The reset of an interface: GEN rises, STATE passes through in reset, the ring counts clear, and the TDISP state is
CONFIG_UNLOCKED; launched tasks run on (R272). Pending events carry the GEN before it, and are discarded and counted (R257). -/
def Iface.clear (f : Iface) : Iface :=
  { f.dropPending with gen := f.gen + 1, st := if f.st = 0 then 0 else 1, lqhead := 0, lqtail := 0, lqheld := none, tdi := 0,
                       doorbellVis := [] }

/-- The interface of a partition that is freed is reset and becomes unassigned (R243, R256; DEDUCED, log 70). -/
def Iface.unassign (f : Iface) : Iface := { f.clear with st := 0, part := 0, tslot := 0, defcore := 0 }

/-- An act of the host, or of the management core for it, on an interface: none before the link trains and the firmware runs (R271). -/
def State.onIface (s : State) (iface : Nat) (f : Iface → Iface) : Out := .next (if s.managed then s.modIface iface f else s)

/-- INTERFACE_RESET (R272). -/
def execInterfaceReset (iface : Nat) (s : State) : Out := s.onIface iface Iface.clear

/-- STOP_INTERFACE resets the interface (R265, R272). -/
def execStopInterface (iface : Nat) (s : State) : Out := s.onIface iface Iface.clear

/-- The layout change that the journal holds and whose second phase has not been written (R259). -/
def State.pendingChange (s : State) : Option LayoutChange :=
  match s.journal with
  | .preparing c _ => some c
  | .prepared c _ => some c
  | _ => none

/-- The partition of an interface that is assigned. -/
def Iface.owner (f : Iface) : List Nat := if f.st = 0 then [] else [f.part.toNat]

/-- A layout change under way writes an interface, or names one of some partitions: until it is written, the interface keeps its control
register and its CONFIG_UNLOCKED state, so that the change can write what it was accepted with (R256, R259; that the management core holds
a LOCK_INTERFACE and a write of these fields back for so long is DESIGN CHOICE, log 93). -/
def State.ifaceHeld (s : State) (iface : Nat) (parts : List Nat) : Bool :=
  s.pendingChange.any (fun c => c.ifaces.any (fun e => e.1 = iface) || c.parts.any (fun e => parts.contains e.1))

/-- LOCK_INTERFACE: CONFIG_UNLOCKED to CONFIG_LOCKED (R265). -/
def execLockInterface (iface : Nat) (s : State) : Out :=
  s.onIface iface (fun f => if f.tdi = 0 && !s.ifaceHeld iface f.owner then { f with tdi := 1 } else f)

/-- START_INTERFACE: CONFIG_LOCKED to RUN; held events are delivered (R257, R265, R266). -/
def execStartInterface (iface : Nat) (s : State) : Out :=
  s.onIface iface (fun f =>
    if f.tdi = 1 then (if f.st = 1 then ({ f with tdi := 2 }).deliverPending else { f with tdi := 2 }) else f)

/-- IDE_STREAM_INSECURE: the interface enters ERROR (R227, R265). -/
def execIdeStreamInsecure (iface : Nat) (s : State) : Out := s.onIface iface (fun f => { f.fail with secure := false })

/-- A new link key is installed in a slot; the one before is no longer held, and no flit has been sent under it (R227, R246). -/
def KeySlot.newLink (k : KeySlot) : KeySlot := { k with ver := k.ver + 1, pv := false, flits := 0 }

/-- IDE_KM: the stream of an interface takes its new keys, one for each direction in two link slots, and is secure (R227). That the slots are
operands is DESIGN CHOICE, log 90. -/
def execIdeKm (keys : IdeKeys) (s : State) : Out :=
  if !s.managed || (s.key keys.tx).ty != 4 || (s.key keys.rx).ty != 4 || keys.tx = keys.rx then .next s
  else
    .next (((s.modKey keys.tx KeySlot.newLink).modKey keys.rx KeySlot.newLink).modIface keys.iface (fun f =>
      { f with secure := true, link := some (keys.tx, keys.rx) }))

/-- MIGRATION_DESCHEDULE: GEN rises and the interface pauses (R256, R257). -/
def execMigrationDeschedule (iface : Nat) (s : State) : Out :=
  s.onIface iface (fun f => { f with gen := f.gen + 1, st := if f.st = 1 then 2 else f.st })

/-- INTERFACE_RESUME: a paused interface runs; held events are delivered (R257). -/
def execInterfaceResume (iface : Nat) (s : State) : Out :=
  s.onIface iface (fun f =>
    if f.st != 2 then f else if f.tdi = 2 then ({ f with st := 1 }).deliverPending else { f with st := 1 })

/-- EVENT_DELIVERY: an event stamped with a GEN is checked again when it is delivered (R257, R265). -/
def execEventDelivery (iface vector : Nat) (stamp : BitVec 16) (s : State) : Out :=
  s.onIface iface (fun f =>
    if stamp != f.gen || f.st = 0 || f.st = 3 || f.tdi = 3 then f.discard
    else if f.delivers then { f with delivered := f.delivered ++ [vector] }
    else if f.pending.contains (vector, stamp) then f
    else { f with pending := f.pending ++ [(vector, stamp)] })

/-! ### Doorbells (R263) -/

/-- Whether a doorbell value is out of range: more than a ring ahead of LQHEAD or of the old LQTAIL. -/
def Iface.badTail (f : Iface) (tail : BitVec 32) : Bool :=
  2 ^ f.lqsize.toNat < (tail - f.lqhead).toNat || 2 ^ f.lqsize.toNat < (tail - f.lqtail).toNat

/-- The writes that the host made before now, to its memory (R178, R263, R421). -/
def State.hostWrites (s : State) : List Nat :=
  (s.hist.filter (fun w => w.place = .host && w.owner.isNone && w.scope = .fabric && w.agent = .outside)).map Write.id

/-- A write of LQTAIL: taken, or dropped with an advance of the launch-fault counter. -/
def State.doorbell (s : State) (iface : Nat) (tail : BitVec 32) : State :=
  let f := s.iface iface
  if f.badTail tail then
    let (rid, s) := s.fresh
    s.advanceHandle f.part.toNat (s.part f.part.toNat).launchCtr rid
  else s.modIface iface (fun f => { f with lqtail := tail, doorbellVis := s.hostWrites })

/-- The private page is served: a trusted access on the interface's own secure stream, in RUN (R262). -/
def Iface.serves (f : Iface) (trusted : Bool) : Bool := trusted && f.secure && f.tdi = 2

/-- DOORBELL: a trusted write of LQTAIL; outside RUN the page is an Unsupported Request, logged (R262, R263). Before the link trains nothing
reaches the page (R271). -/
def execDoorbell (iface : Nat) (tail : BitVec 32) (s : State) : Out :=
  if !s.managed then .next s
  else if (s.iface iface).serves true then .next ((s.crossCxl iface false (leBytes 4 tail.toNat)).doorbell iface tail)
  else .next { s with log := s.log ++ ([.page iface 0x010] : List LogEntry) }

/-! ### Locked registers (R263, R265, R266) -/

/-- A control register whose DEFCORE and TSLOT belong to its PART (R256). -/
def State.controlOk (s : State) (part : BitVec 6) (tslot : BitVec 13) (defcore : BitVec 10) : Bool :=
  (s.part part.toNat).cores.contains defcore.toNat && (s.key tslot.toNat).ty = 2 && (s.key tslot.toNat).part = part

/-- The fields of a control register (R256). -/
def ctlPart (w : Word) : BitVec 6 := w.extractLsb' 40 6
def ctlTslot (w : Word) : BitVec 13 := w.extractLsb' 10 13
def ctlDefcore (w : Word) : BitVec 10 := w.extractLsb' 0 10

/-- The RW fields of a control register are written; one that was unassigned may run from now (R256). -/
def Iface.write (f : Iface) (w : Word) : Iface :=
  { f with part := ctlPart w, tslot := ctlTslot w, defcore := ctlDefcore w, st := if f.st = 0 then 1 else f.st }

/-- Write a locked register in CONFIG_UNLOCKED: values outside a field's range change nothing, and so does one that would leave DEFCORE or
TSLOT outside PART (R256; log 21). PART, DEFCORE and TSLOT are fields of one control register, written whole or one at a time. -/
def State.writeLocked (s : State) (f : Iface) (reg : LockedReg) (v : Word) : Iface :=
  match reg with
  | .lqbase => { f with lqbase := v &&& ~~~0xFFF#64 }
  | .lqsize => if 4 ≤ v.toNat % 16 && v.toNat % 16 ≤ 12 then { f with lqsize := v.setWidth 4 } else f
  | .msix vector high => if vector < 64 then { f with msix := f.msix.set (2 * vector + high.toNat) v } else f
  | .control => if s.controlOk (ctlPart v) (ctlTslot v) (ctlDefcore v) then f.write v else f
  | .part => if s.controlOk (v.setWidth 6) f.tslot f.defcore then { f with part := v.setWidth 6 } else f
  | .defcore => if (s.part f.part.toNat).cores.contains (v.toNat % 1024) then { f with defcore := v.setWidth 10 } else f
  | .tslot =>
    let k := s.key (v.toNat % 8192)
    if k.ty = 2 && k.part = f.part then { f with tslot := v.setWidth 13 } else f

/-- The partition that a write of PART names. -/
def namedPart (reg : LockedReg) (v : Word) : List Nat :=
  match reg with
  | .control => [(ctlPart v).toNat]
  | .part => [v.toNat % 64]
  | _ => []

/-- A write of a field of the control register waits for a layout change under way (R256, R259). -/
def State.writeHeld (s : State) (iface : Nat) (reg : LockedReg) (v : Word) : Bool :=
  match reg with
  | .lqbase | .lqsize | .msix _ _ => false
  | _ => s.ifaceHeld iface ((s.iface iface).owner ++ namedPart reg v)

/-- A write of a locked register: performed in CONFIG_UNLOCKED; elsewhere dropped, and the interface enters ERROR. -/
def State.lockedWrite (s : State) (iface : Nat) (reg : LockedReg) (v : Word) : State :=
  s.modIface iface (fun f => if f.tdi != 0 then f.fail else if s.writeHeld iface reg v then f else s.writeLocked f reg v)

/-- LOCKED_REGISTER_WRITE (R265), once the link has trained and the firmware runs (R271). R262 makes a trusted access to the private page
outside RUN an Unsupported Request without effect, where R265 and R266 let a write of a locked register act in every TDISP state: this event
is such a write, however it reaches the register, and an access to the page itself follows R262 (REGISTER_WRITE). DESIGN CHOICE, log 94. -/
def execLockedRegisterWrite (iface : Nat) (reg : LockedReg) (v : Word) (s : State) : Out :=
  .next (if s.managed then s.lockedWrite iface reg v else s)

/-! ### Register pages (R244, R262 to R264) -/

/-- What a register of the private page reads. -/
def State.privateRead (s : State) (iface off : Nat) : Word :=
  let f := s.iface iface
  if off = 0x000 then f.lqbase
  else if off = 0x008 then f.lqsize.setWidth 64
  else if off = 0x010 then f.lqtail.setWidth 64
  else if off = 0x018 then f.lqhead.setWidth 64
  else if off = 0x020 then f.stale.setWidth 64
  else if 0x100 ≤ off && off < 0x200 && off % 8 = 0 then s.perf.get 0 (f.part.toNat * 32 + (off - 0x100) / 8)
  else if 0x800 ≤ off && off < 0xC00 && off % 8 = 0 then f.msix.get 0 ((off - 0x800) / 8)
  else 0

/-- What a register of the shared page reads: the TDISP state and the coarsened counters. -/
def State.sharedRead (s : State) (iface off : Nat) : Word :=
  let f := s.iface iface
  if off = 0x000 then f.tdi.setWidth 64
  else if 0x100 ≤ off && off < 0x200 && off % 8 = 0 then s.perfSample.get 0 (f.part.toNat * 32 + (off - 0x100) / 8)
  else 0

/-- A write of the private page. -/
def State.privateWrite (s : State) (iface off : Nat) (v : Word) : State :=
  if off = 0x000 then s.lockedWrite iface .lqbase v
  else if off = 0x008 then s.lockedWrite iface .lqsize v
  else if off = 0x010 then s.doorbell iface (v.setWidth 32)
  else if 0x800 ≤ off && off < 0xC00 && off % 8 = 0 then
    s.lockedWrite iface (.msix ((off - 0x800) / 16) ((off - 0x800) / 8 % 2 = 1)) v
  else s

/-- A trusted access to an interface's private page crosses the CXL port in the interface's own stream: what is written, and what is read
(R222, R227, R262). -/
def State.pageCrosses (s : State) (iface : Nat) (out : Bool) (v : Word) : State := s.crossCxl iface out (leBytes 8 v.toNat)

/-- Data returned to the host. -/
def State.answer (s : State) (v : Word) : State := { s with reply := leBytes 8 v.toNat }

/-- REGISTER_WRITE: a host access to an interface's pages (R262, R263). Every register of the shared page is read-only. Before the link
trains nothing reaches the pages (R271). -/
def execRegisterWrite (iface : Nat) (acc : PageAccess) (s : State) : Out :=
  if !s.managed then .next { s with reply := [] }
  else if acc.isPrivate then
    if !(s.iface iface).serves acc.trusted then .next { s with log := s.log ++ ([.page iface acc.offset] : List LogEntry), reply := [] }
    else
      match acc.write with
      | some v => .next ((s.pageCrosses iface false v).privateWrite iface acc.offset v)
      | none =>
        let v := s.privateRead iface acc.offset
        .next ((s.pageCrosses iface true v).answer v)
  else
    match acc.write with
    | some _ => .next s
    | none => .next (s.answer (s.sharedRead iface acc.offset))

/-- COUNTER_SAMPLE: the start of a 16 ms window: the host sees each counter coarsened for that window (R244). -/
def execCounterSample (s : State) : Out :=
  .next { s with perfSample := s.perf.map (fun e => (e.1, BitVec.ofNat 64 (e.2.toNat / 1048576 * 1048576))) }

end Sys2Proof.Machine
end

