-- ==== Sys2Proof/Machine/SaveImage.lean ====
section
/-! DEFINITION. The image that a pre-emption writes into a partition's save area: its blocks and records as R212 and R213 lay
them out (log 16 for what they leave open). -/

namespace Sys2Proof.Machine

/-- Pieces of an image: offset and bytes. -/
abbrev Pieces := List (Nat × List Byte)

def Pieces.shift (p : Pieces) (off : Nat) : Pieces := p.map (fun x => (off + x.1, x.2))

/-- The cells of a memory as pieces. -/
def memPieces (m : Mem) : Pieces := m.map (fun e => (e.1, [e.2]))

/-- One piece of words. -/
def wordsPiece (off : Nat) (ws : List Nat) : Nat × List Byte := (off, ws.flatMap (leBytes 8))

def sensBits (xs : List Sens) : Nat := joinBits 2 (xs.map Sens.code)

/-- A line-tag byte (R212). -/
def LineTag.byte (t : LineTag) : Byte := BitVec.ofNat 8 (t.fmt.toNat + 16 * t.sens.code + 64 * t.layout.toNat)

def tagPieces (m : SMap LineTag) : Pieces := m.map (fun e => (e.1, [e.2.byte]))

/-! ### Context records (R212) -/

/-- Block reasons (R212, control word 19). -/
def Block.code : Block → Nat
  | .cwait .. => 1
  | .waitn _ => 2
  | .cap .. => 3
  | .lines _ => 3
  | .queue _ => 3
  | .arrayOwned => 4
  | .translation _ => 5
  | .shutter => 6
  | .asyncPass => 6
  | .scrub => 7

def Ctx.blockCode (c : Ctx) : Nat := if c.ending.isSome then 8 else (c.block.map Block.code).getD 0

/-- A latch file: descriptors in LATCH1 form, then values. -/
def latchPieces (l : List LatchEntry) : Pieces :=
  (l.zipIdx.map (fun e => (16 * e.2, leBytes 8 e.1.descriptor.toNat))) ++
  (l.zipIdx.map (fun e => (1024 + 256 * e.2, leBytes 256 e.1.val.toNat)))

/-- The 64-byte lines of a store. -/
def Store.lines (t : Store) : List Store :=
  (cutLines (t.bytes.length + 1) t.addr t.bytes).map (fun p => { t with addr := p.1, bytes := p.2 })

/-- The space and address of an unpublished store's line (R212). R212 does not say which address an S line's entry holds: it is the bank
address, hashed under the context's HASHKEY, and not the program's (DESIGN CHOICE, log 16). -/
def Store.space (t : Store) : Nat :=
  match t.place with
  | .s _ => 3 * 2 ^ 61 + t.addr / 64 * 64
  | _ => 4 * 2 ^ 61 + (4096 * t.page.page + t.addr % 4096) / 64 * 64

def storeMask (t : Store) : Nat := (2 ^ t.bytes.length - 1) * 2 ^ (t.addr % 64)

/-- Unpublished stores by 64-byte line, in issue order: address, byte mask, data. -/
def storeEntries : List Store → List (Nat × Nat × Mem)
  | [] => []
  | t :: ts =>
    let rest := ts.filter (fun x => x.space = t.space)
    let line := (t :: rest)
    (t.space, line.foldl (fun m x => m ||| storeMask x) 0, line.foldl (fun (m : Mem) x => m.putBytes (x.addr % 64) x.bytes) []) ::
      (storeEntries ts).filter (fun e => e.1 != t.space)

def storePieces (l : List Store) : Pieces :=
  (storeEntries (l.flatMap Store.lines)).zipIdx.map (fun e => (80 * e.2, leBytes 8 e.1.1 ++ leBytes 8 e.1.2.1 ++ Mem.bytes e.1.2.2 0 64))

/-- The state of a session that its blob holds (R237): captured operands, BYTES and hash state. -/
def Ctx.sessionBytes (c : Ctx) (z : Session) : List Byte :=
  leBytes 2 z.slot.toNat ++ leBytes 2 z.model.toNat ++ leBytes 8 z.record ++ leBytes 8 z.completion.handle.toNat ++
  leBytes 8 z.completion.incr ++ leBytes 8 c.sealBytes.toNat ++ z.metaBytes ++ z.hashed

/-- The blob of an open session: its state wrapped under the per-boot key (R219, R237). -/
def sessionBlob (boot : Nat) (c : Ctx) (aad : List Byte) : List Byte :=
  match c.session with
  | none => []
  | some z => if c.sealState = 1 then (List.range 1024).map (Config.wrappedByte boot aad (c.sessionBytes z)) else []

/-- The additional data of a session's blob (R237): partition, CORENUM, CTXNUM and pre-emption serial. -/
def blobAad (part core x serial : Nat) : List Byte := leBytes 1 part ++ leBytes 2 core ++ leBytes 1 x ++ leBytes 8 serial

/-- The control block. -/
def ctlWords (s : State) (k : Core) (x : Nat) : List Nat :=
  let c := k.ctx x
  let win := (k.passes.find? (fun p => p.ctx = x && p.fwd && p.age ≤ p.last)).map (fun p => 2 ^ 63 + (p.last + 1 - p.age))
  let cw := match c.block with
    | some (.cwait _ h t) => [h.toNat, t]
    | _ => [0, 0]
  [c.pc.toNat, c.taskId.toNat, c.nestId.toNat, c.budget.toNat, c.acyc.toNat, c.frz.toNat, c.bankStall.toNat, c.flags.toNat,
   c.frm.toNat, c.mode.toNat, c.tvec.toNat, c.trapPc.toNat, c.trapCause.toNat, c.trapVal.toNat, c.hashKey.toNat,
   c.kslot.toNat + (s.key c.kslot.toNat).ver.toNat * 2 ^ 32, c.age.toNat, c.sealst.toNat,
   c.counts.gl + 256 * c.counts.gs + 65536 * c.counts.cp + 16777216 * c.counts.mt + 4294967296 * c.counts.sf,
   c.task.isSome.toNat + 2 * c.priv.toNat + 16 * c.blockCode + 256 * c.reports.length] ++ cw ++
  [c.cfg.afmt.toNat + 16 * c.cfg.dfmt.toNat + 256 * c.cfg.layout.toNat + 65536 * c.cfg.scaleSens.code,
   c.cfg.gelu.toNat + 65536 * c.cfg.smax.toNat, win.getD 0]

def scaleBytes (cfg : ArrayCfg) : List Byte :=
  (cfg.cs.toList ++ cfg.rs.toList).flatMap (fun (w : BitVec 16) => leBytes 2 w.toNat)

def ctxPieces (s : State) (k : Core) (x : Nat) (aad : List Byte) : Pieces :=
  let c := k.ctx x
  let preds := (List.range 8).map (fun i => c.readP (BitVec.ofNat 3 i))
  [wordsPiece 0 ((List.range 32).map (fun i => (c.readG (BitVec.ofNat 5 i)).val.toNat)),
   wordsPiece 0x100 [sensBits ((List.range 32).map (fun i => (c.readG (BitVec.ofNat 5 i)).sens)),
     joinBits 1 (preds.map (fun (p : PReg) => p.val.toNat)) + sensBits (preds.map PReg.sens) * 2 ^ 8 +
     sensBits (c.m.toList.map MReg.sens) * 2 ^ 24 + sensBits (c.q.toList.map QReg.sens) * 2 ^ 40 +
     joinBits 4 (c.q.toList.map (fun (q : QReg) => q.fmt.toNat)) * 2 ^ 48],
   (0x110, leBytes 16 (joinBits 4 (c.v.toList.map (fun (v : VReg) => v.fmt.toNat)))),
   (0x120, leBytes 8 (sensBits (c.v.toList.map VReg.sens))),
   (0x130, c.m.toList.flatMap (fun (m : MReg) => leBytes 32 m.val.toNat)),
   (0x230, c.q.toList.flatMap (fun (q : QReg) => leBytes 32 q.val.toNat)),
   wordsPiece 0x300 (ctlWords s k x),
   (0x400, scaleBytes c.cfg),
   (0x800, c.v.toList.flatMap (fun (v : VReg) => leBytes 256 v.val.toNat)),
   wordsPiece 0xF000 (c.reports.flatMap (fun (r : Report) => [r.cause.toNat, r.val.toNat]))] ++
  (latchPieces c.latch).shift 0x2800 ++ (latchPieces (c.held.getD [])).shift 0x6C00 ++
  [(0xB000, sessionBlob s.boots c aad)] ++ (storePieces c.stores).shift 0xB400

/-! ### Command records (R213) -/

/-- A command record. -/
structure CmdRec where
  kind : Nat
  ctx : Nat
  chan : Nat
  pos : Nat
  fn : Nat
  nc : Bool
  progress : Nat
  regs : List Word
  conf : Nat
  hashKey : Nat
  chained : Nat
  chRegs : List Word
  scales : List Byte

def CmdRec.pieces (r : CmdRec) : Pieces :=
  [(0, leBytes 1 r.kind ++ leBytes 1 (r.ctx % 4 + 4 * r.chan) ++ leBytes 2 r.pos ++ leBytes 4 (r.fn + 256 * r.nc.toNat) ++
     leBytes 8 r.progress),
   wordsPiece 16 (r.regs.map BitVec.toNat), wordsPiece 72 [r.conf, r.hashKey, r.chained], wordsPiece 96 (r.chRegs.map BitVec.toNat),
   (128, r.scales)]

/-- An asynchronous matrix command: its kind, its progress in rows and the scale store it captured. -/
def ArrCmd.captured : ArrCmd → Nat × Nat × List Byte
  | .wld _ _ => (6, 0, [])
  | .pass _ _ next => (7, next, [])
  | .drain a next _ => (8, next, scaleBytes a.cfg)

def arrRec (pos : Nat) (e : ArrEntry) : CmdRec :=
  let (kind, progress, scales) := e.cmd.captured
  ⟨kind, e.ctx, 0, pos, e.fn.toNat, false, progress, e.regs, e.conf, 0, 0, [], scales⟩

def copyRec (ch pos : Nat) (c : CopyCmd) : CmdRec :=
  let kind := if c.shape.gather.isSome then 3 else if c.chained.isSome then 2 else 1
  let (conf, scales) := match c.chained with
    | some (e, _) => (e.conf, e.cmd.captured.2.2)
    | none => (0, [])
  ⟨kind, c.ctx, ch, pos, c.fn.toNat, c.nc, c.done, c.regs, conf, c.hashKey.toNat, (c.chained.map (fun e => e.2.toNat)).getD 0,
    (c.chained.map (fun e => e.1.regs)).getD [], scales⟩

def sweepRec (pos : Nat) (c : SweepCmd) : CmdRec :=
  ⟨4, c.ctx, 0, pos, c.fn, false, c.next, c.regs, c.frm.toNat + (c.gelu.toNat + 65536 * c.smax.toNat) * 2 ^ 32, c.hashKey.toNat, 0,
    [], []⟩

def collRec (pos : Nat) (ctx : Nat) (p : CollPart) : CmdRec :=
  ⟨5, ctx, 0, pos, p.op + 4 * p.ty, false, p.done, p.regs, 0, p.hashKey.toNat, 0, [], []⟩

/-- The commands of a core, queue by queue in position order. -/
def State.commands (s : State) (core : Nat) (k : Core) : List CmdRec :=
  [0, 1, 2, 3].flatMap (fun ch => (k.chan ch).zipIdx.map (fun c => copyRec ch c.2 c.1)) ++
  k.sweeps.zipIdx.map (fun c => sweepRec c.2 c.1) ++
  ((s.colls.flatMap (fun (c : Coll) => c.parts.filterMap (fun (p : CollPart) => match p.who with
    | some w => if w.core = core && !p.failed then some (w.ctx, p) else none
    | none => none))).zipIdx.map (fun (c : (Nat × CollPart) × Nat) => collRec c.2 c.1.1 c.1.2)) ++
  ((k.shutter.map (fun x => (⟨6, x.ctx, 0, 0, 0, false, 0, [BitVec.ofNat 64 x.slot], x.conf, 0, 0, [], []⟩ : CmdRec))).toList) ++
  k.queue.zipIdx.map (fun e => arrRec (e.2 + k.shutter.isSome.toNat) e.1)

/-! ### Core and cluster blocks, the area (R212) -/

def planeBits (p : Plane) : Nat := p.valid.toNat + 2 * p.slot + 256 * p.layout.toNat

/-- A sum as s64. -/
def sumBytes (i : Int) : List Byte := leBytes 8 (wrapInt 64 i)

/-- A lock-step pass in four words: its captured registers and the active cycle of its issue. The order of the words is DESIGN CHOICE
(log 16). -/
def Pass.words (k : Core) (p : Pass) : List Nat :=
  [p.args.xaddr, p.args.y0, p.args.rows + 65536 * p.args.stride, ((k.ctx p.ctx).acyc - BitVec.ofNat 64 p.age).toNat]

/-- The lock-step record: operands and issue cycles of up to two passes, and their rows read and not yet written. -/
def lockstepPieces (k : Core) : Pieces :=
  match k.passes with
  | [] => []
  | p :: _ =>
    [wordsPiece 0 ((1 + 2 * p.ctx) :: (k.passes.take 2).flatMap (Pass.words k)),
     (0x100, (k.passes.flatMap Pass.rows).flatMap (fun (r : RowSums) => r.sums.flatMap sumBytes))]

def State.corePieces (s : State) (part serial core : Nat) (k : Core) : Pieces :=
  let cmds := s.commands core k
  [(0, leBytes 2 core ++ leBytes 1 (k.last % 4) ++ leBytes 1 0 ++ leBytes 2 k.pwrlim.toNat),
   (8, leBytes 8 (planeBits k.active + 65536 * planeBits k.shadow) ++ leBytes 2 cmds.length)] ++
  (lockstepPieces k).shift 0x1000 ++ (tagPieces k.xtags).shift 0x2000 ++ (tagPieces k.ytags).shift 0x2400 ++
  cmds.zipIdx.flatMap (fun r => r.1.pieces.shift (0x4000 + 512 * r.2)) ++
  [0, 1, 2, 3].flatMap (fun x =>
    (ctxPieces s k x (blobAad part core x serial)).shift (0x14000 + 0x10000 * x)) ++
  (memPieces k.x).shift 0x54000 ++ (memPieces k.y).shift 0x94000 ++ (memPieces k.w).shift 0xB4000

/-- A bank address lies in the rows of a window. -/
def inRows (win : Nat × Nat) (ph : Nat) : Bool := win.1 / 8192 ≤ ph / 256 % 512 && ph / 256 % 512 < (win.1 + win.2) / 8192

/-- The place of a bank address in the saved window: rows in order, and within a row its banks in order (log 16). -/
def windowOffset (win : Nat × Nat) (ph : Nat) : Nat := (ph / 256 % 512 - win.1 / 8192) * 8192 + ph / 131072 * 256 + ph % 256

def clusterPieces (win : Nat × Nat) (m : Mem) (tags : SMap LineTag) : Pieces :=
  tags.map (fun e => (windowOffset win (e.1 * 256) / 256, [e.2.byte])) ++
  m.map (fun e => (65536 + windowOffset win e.1, [e.2]))

/-- Numbers without repeats in rising order. -/
def distinct (xs : List Nat) : List Nat := unionNat xs []

/-- The image of a partition on a die. -/
def State.diePieces (s : State) (part serial die : Nat) (v : Saved) : Pieces :=
  let cs := v.cores.filter (fun c => dieOf c.1 = die)
  let cls := v.windows.filter (fun w => w.1 / 16 = die)
  let bits (xs : List Nat) (n : Nat) : Nat := joinBits 1 ((List.range n).map (fun i => (xs.contains i).toNat))
  [(0, leBytes 4 1 ++ leBytes 1 die ++ leBytes 1 part ++ leBytes 2 cs.length ++ leBytes 8 serial ++ leBytes 8 (v.cycles.getD die 0)),
   (0x40, leBytes 32 (bits (cs.map (fun c => c.1 % 256)) 256)), (0x60, leBytes 2 (bits (cls.map (fun c => c.1 % 16)) 16))] ++
  cs.zipIdx.flatMap (fun c => (s.corePieces part serial c.1.1 c.1.2).shift (0x10000 + 0x100000 * c.2)) ++
  cls.zipIdx.flatMap (fun c => (clusterPieces (s.window (16 * c.1.1) part) c.1.2.1 c.1.2.2).shift
    (0x10000 + 0x100000 * cs.length + 0x410000 * c.2))

/-- The bytes of pieces as a memory. -/
def Pieces.mem (p : Pieces) : Mem := p.foldl (fun (m : Mem) x => m.putBytes x.1 x.2) []

/-- Write whole lines of an image at a DPA, counted as lines written (R264); every other byte of the area is zero. -/
def State.writeImage (s : State) (part base lines : Nat) (m : Mem) : State :=
  ((List.range lines).foldl (fun (u : State) i => (u.writeHbmLine (base + 64 * i) (m.bytes (64 * i) 64)).getD u) s).perfAdd part 17 lines

end Sys2Proof.Machine
end

