-- ==== Sys2Proof/Machine/Preempt.lean ====
section
/-! DEFINITION. Time slices: freezing, saving and resuming a partition (R161, R210 to R214, R237, R250). -/

namespace Sys2Proof.Machine

/-- The state that an event of the package leaves. -/
def after (f : State → Out) (s : State) : State :=
  match f s with
  | .next t => t
  | _ => s

/-- The contexts of cores. -/
def ctxsOf (cores : List Nat) : List Who := cores.flatMap (fun c => [0, 1, 2, 3].map (fun x => (⟨c, x⟩ : Who)))

/-! ### What completes before the save (R210, R211) -/

/-- Outstanding operations of a context are performed, and return without waiting for active cycles. -/
def State.drainOps (s : State) (w : Who) : State :=
  let x := BitVec.ofNat 2 w.ctx
  let n := (s.ctx w).ops.length
  let s := s.modCtx w (fun c => { c with ops := c.ops.map (fun (o : VlOp) => { o with wait := 0 }) })
  let s := (List.range n).foldl (fun (u : State) i =>
    after (execRedPerformed w.core x i) (after (execCaslPerformed w.core x i) (after (execAtomicPerformed w.core x i) u))) s
  (List.range n).foldl (fun (u : State) i => after (execGlReturn w.core x (n - 1 - i)) u) s

/-- Publications and advances of the contexts of cores go on. -/
def State.drainPubs (s : State) (cores : List Nat) : State :=
  let ps := s.pubs.filter (fun p => cores.contains p.who.core)
  let s := ps.foldl (fun (u : State) p =>
    p.stores.foldl (fun (v : State) _ => after (execStorePerformed p.id 0) v) u) s
  let s := ps.foldl (fun (u : State) p => after (execPublicationComplete p.id) u) s
  let n := s.advances.length
  let s := (List.range n).foldl (fun (u : State) i => after (execCounterAdvance (n - 1 - i)) u) s
  let m := s.fills.length
  (List.range m).foldl (fun (u : State) i => after (execProbeFill (m - 1 - i)) u) s

/-- The slot of a KROT under way. -/
def krotSlots (l : List MiscCmd) : List Nat := l.filterMap (fun m => match m with
  | .krot _ _ k _ _ _ _ => some k.toNat
  | _ => none)

/-- SEAL, SCRUB, KROT, CKPT and RSTR commands of a core complete, and a started sweep its row (R211). Copies ahead of an ABSORB in its channel
complete too, since the channel is in order (DESIGN CHOICE, log 83). -/
def State.drainMisc (s : State) (core : Nat) : State :=
  let s := s.endSweepRow core
  let s := (krotSlots (s.core core).misc).foldl (fun (u : State) k =>
    after (execReencryptionSweep k) (after (execKeyInstall k) u)) s
  let s := [0, 1, 2, 3].foldl (fun (u : State) (ch : Nat) =>
    if ((u.core core).chan ch).any (fun c => c.absorb) then
      after (fun t => t.absorbEnds core (BitVec.ofNat 2 ch)) (after (fun t => t.copyEnds core (BitVec.ofNat 2 ch)) u)
    else u) s
  [0, 1, 2, 3].foldl (fun (u : State) (x : Nat) =>
    let c := BitVec.ofNat 2 x
    after (execSealRecordWrite core c) (after (execRstrComplete core c) (after (execCkptComplete core c)
      (after (execScrubComplete core c) u)))) s

/-- One round over the cores of a partition. -/
def State.drainRound (s : State) (cores : List Nat) : State :=
  cores.foldl State.drainMisc ((ctxsOf cores).foldl State.drainOps (s.drainPubs cores))

/-- Everything that must complete has completed. -/
def State.drained (s : State) (cores : List Nat) : Bool :=
  (ctxsOf cores).all (fun w => (s.ctx w).ops.isEmpty && (s.ctx w).sealState != 2) &&
  !s.pubs.any (fun p => cores.contains p.who.core) &&
  !s.advances.any (fun a => a.who.any (fun w => cores.contains w.core)) &&
  !s.fills.any (fun f => cores.contains f.who.core) &&
  cores.all (fun c => (s.core c).misc.isEmpty && ((s.core c).chans.toList.all (fun ch => !ch.any (fun (x : CopyCmd) => x.absorb))))

/-- Rounds until nothing is left to complete. -/
def State.drain (s : State) (cores : List Nat) : Nat → State
  | 0 => s
  | n + 1 => if s.drained cores then s else (s.drainRound cores).drain cores n

/-- A bound on the rounds. -/
def State.drainRounds (s : State) (cores : List Nat) : Nat :=
  (ctxsOf cores).foldl (fun n w => n + (s.ctx w).ops.length + 8) (8 + s.advances.length + s.pubs.length)

/-! ### Freezing and saving (R210 to R212) -/

/-- A core as it freezes: a switch is completed in the record, with the incoming context as the one that issues, and a bank conflict is
forgotten (R210). -/
def Core.freeze (k : Core) : Core :=
  let x := (k.switching.map Prod.fst).getD k.serving
  { k.bankFresh with last := x, serving := x, switching := none }

/-- The writes that a context would see as its own are kept as visible ones while others use its core. -/
def State.keepOwn (s : State) (w : Who) : State :=
  let ids := (s.hist.filter (fun x => x.owner = some w)).map Write.id
  (s.modCtx w (fun c => { c with vis := unionNat ids c.vis })).disown w

/-- The rows of a partition's window in a cluster. -/
def State.takeWindow (s : State) (part cl : Nat) : Mem × SMap LineTag :=
  let win := s.window (16 * cl) part
  ((s.cluster cl).s.filter (fun e => inRows win e.1), (s.cluster cl).stags.filter (fun e => inRows win (e.1 * 256)))

/-- What a copy has read and not written is not saved: its source is read again on resume (R211). -/
def Core.dropReads (k : Core) : Core := { k with chans := k.chans.map (fun l => l.map (fun (c : CopyCmd) => { c with got := CopyGot.empty })) }

/-- What a pre-emption saves: the cycle counts at the freeze, the cores in ascending number, the windows, and the order of the windows'
writes. -/
def State.snapshot (s : State) (part serial : Nat) (cores : List Nat) : Saved :=
  let cls := distinct (cores.map clusterOf)
  let here (p : Place) (a : Nat) : Bool := match p with
    | .s cl => cls.contains cl && inRows (s.window (16 * cl) part) a
    | _ => false
  { serial, cycles := s.frozenAt.get [] part, cores := (distinct cores).map (fun c => (c, (s.core c).dropReads))
    windows := cls.map (fun cl => (cl, s.takeWindow part cl))
    hist := s.hist.filter (fun w => here w.place w.addr)
    ctrRels := s.ctrRels.filter (fun e => match e.1 with
      | .sword c a => here (.s c) a
      | _ => false) }

/-- A core loses all that a partition has left in it; PWRLIM stays (R45), and so does its clock. -/
def Core.clear (k : Core) : Core := { Core.reset with pwrlim := k.pwrlim, clock := k.clock }

/-- The cores and windows are free for another partition of the group. -/
def State.vacate (s : State) (part : Nat) (cores : List Nat) : State :=
  let s := cores.foldl (fun (u : State) c => u.modCore c Core.clear) s
  (distinct (cores.map clusterOf)).foldl (fun (u : State) cl => u.zeroWindow (16 * cl) part) s

/-- Write the image to every die's save area (R212). -/
def State.saveImages (s : State) (part serial : Nat) (v : Saved) : State :=
  [0, 1, 2, 3].foldl (fun (u : State) d =>
    let cs := v.cores.filter (fun c => dieOf c.1 = d)
    let base := (u.part part).saveArea.getD d 0
    if cs.isEmpty || base = 0 then u
    else
      let len := saveLen cs.length (distinct (cs.map (fun c => clusterOf c.1))).length
      u.writeImage part base (len / 64) (s.diePieces part serial d v).mem) s

/-- A partition takes its turn in its time-share group. -/
def State.startTurn (s : State) (p : Nat) : State :=
  { s with groups := s.groups.map (fun (g : Group) => if g.members.any (fun m => m.1 = p) then { g with running := some p, turn := p } else g) }

/-- A partition's turn in its time-share group is over (R250). -/
def State.endTurn (s : State) (p : Nat) : State :=
  { s with groups := s.groups.map (fun (g : Group) => if g.running = some p then { g with running := none, turn := p } else g) }

/-- Set the state of a partition. -/
def State.setPart (s : State) (p : Nat) (d : PartDesc) : State := { s with parts := s.parts.set p d }
def State.setPartState (s : State) (p : Nat) (st : PartState) : State := s.setPart p { s.part p with state := st }

/-- A task that waits for its parameter block has not started: it stays in the pool (R210, R217). -/
def State.returnTask (s : State) (w : Who) : State :=
  match (s.ctx w).starting with
  | none => s
  | some t => (s.modCtx w (fun c => { c with starting := none })).modDie (dieOf w.core) (fun d => { d with pool := d.pool ++ [t] })

/-- The cores of a partition freeze: from here on they issue nothing, and their arrays and Shutters stand still (R210). -/
def State.freezePart (s : State) (p : Nat) : State :=
  if s.frozen.contains p then s
  else
    let cores := (s.part p).cores
    let s := cores.foldl (fun (u : State) c => u.modCore c Core.freeze) s
    { (ctxsOf cores).foldl State.returnTask s with
      frozen := insertNat p s.frozen, frozenAt := s.frozenAt.set p ([0, 1, 2, 3].map (fun d => (s.die d).cycles)) }

/-- The cores of a partition run on, where its pre-emption is given up. -/
def State.unfreeze (s : State) (p : Nat) : State := { s with frozen := s.frozen.filter (fun q => q != p), frozenAt := s.frozenAt.erase p }

/-- Pre-empt a running partition: its cores freeze, what they have issued completes, and then they are saved and freed. While an access
waits for an agent outside, the cores stay frozen and the save comes later (log 17). -/
def State.preempt (s : State) (p : Nat) : State × Bool :=
  let cores := (s.part p).cores
  let s := s.freezePart p
  let s := s.drain cores (s.drainRounds cores)
  if !s.drained cores then (s, false)
  else
    let s := (ctxsOf cores).foldl (fun (u : State) w => (u.keepOwn w).removeWaiters w) s
    let serial := s.preemptions.get 0 p + 1
    let v := s.snapshot p serial cores
    let t := ((s.unfreeze p).saveImages p serial v).vacate p cores
    ((({ t with saved := t.saved.set p v, preemptions := t.preemptions.set p serial }).setPartState p .descheduled).endTurn p, true)

/-! ### Resuming (R161, R214) -/

/-- The lines of the image of saved cores of one die (R212). -/
def imageLines (cs : List (Nat × Core)) : Nat := saveLen cs.length (distinct (cs.map (fun c => clusterOf c.1))).length / 64

/-- Every line of the save areas reads (R214). -/
def State.imagesOk (s : State) (p : Nat) (v : Saved) : Bool :=
  [0, 1, 2, 3].all (fun d =>
    let cs := v.cores.filter (fun c => dieOf c.1 = d)
    let base := (s.part p).saveArea.getD d 0
    cs.isEmpty || base = 0 || (List.range (imageLines cs)).all (fun i => s.lineOk (base + 64 * i)))

/-- The lines that a resume reads from the save areas (R264). -/
def State.imageReads (s : State) (p : Nat) (v : Saved) : Nat :=
  [0, 1, 2, 3].foldl (fun n d =>
    let cs := v.cores.filter (fun c => dieOf c.1 = d)
    if cs.isEmpty || (s.part p).saveArea.getD d 0 = 0 then n else n + imageLines cs) 0

/-- The saved blob of a context's session as the save area holds it is the one that was written: its tag verifies (R237). -/
def State.blobOk (s : State) (p : Nat) (v : Saved) (core x : Nat) (c : Ctx) : Bool :=
  let d := dieOf core
  let base := (s.part p).saveArea.getD d 0
  let i := ((v.cores.filter (fun k => dieOf k.1 = d)).map Prod.fst).idxOf core
  let blob := sessionBlob s.boots c (blobAad p core x v.serial)
  base = 0 || s.hbm.bytes (base + 0x10000 + 0x100000 * i + 0x14000 + 0x10000 * x + 0xB000) blob.length = blob

/-- A session whose blob fails its tag closes REFUSED, as a CLOSE would issue (R236, R237). -/
def Ctx.refuseSession (c : Ctx) : Ctx :=
  if c.sealState != 1 then c
  else Ctx.bump { c with session := c.session.map (fun (z : Session) => { z with refused := true }), sealState := 2 } .cp 1

/-- The saved cores as their blobs open. -/
def State.openSessions (s : State) (p : Nat) (v : Saved) : Saved :=
  { v with cores := v.cores.map (fun (k : Nat × Core) => (k.1, [0, 1, 2, 3].foldl (fun (q : Core) x =>
      if s.blobOk p v k.1 x (q.ctx x) then q else q.setCtx x (q.ctx x).refuseSession) k.2)) }

/-- A report of every context of a core that holds a task (R161). -/
def State.reportAll (s : State) (core : Nat) (cause : BitVec 8) (val : Word) : State :=
  [0, 1, 2, 3].foldl (fun (u : State) x => if (u.ctx ⟨core, x⟩).task.isSome then u.report ⟨core, x⟩ cause val else u) s

/-- Reload a plane from its slot: the plane, or an invalid one and the reports (R161). Its key check takes the tenants of the
core's tasks: any one of them that was granted the model is enough (DEDUCED, log 18). -/
def State.reloadPlane (s : State) (core : Nat) (p : Plane) : State × Plane :=
  if !p.valid then (s, p)
  else
    let k := s.core core
    let bytes := k.w.bytes (3200 * p.slot) 3200
    let keyOk := [0, 1, 2, 3].any (fun x => (k.ctx x).task.isSome && s.headerKeyOk (k.ctx x).part (k.ctx x).kslot (bytes.take 128))
    match shutterCheck keyOk (k.slotBad p.slot) p.layout bytes with
    | .ok ps => (s, { p with data := ps })
    | .error (c, o) => (s.reportAll core c (BitVec.ofNat 64 (p.slot * 65536 + o)), .reset)

/-- A WLD in flight is restarted whole (R161). -/
def State.restartWld (s : State) (core : Nat) : State :=
  match (s.core core).shutter with
  | none => s
  | some x =>
    let s := s.startWld ⟨core, x.ctx⟩ x.slot x.layout x.conf
    (List.range 13).foldl (fun (u : State) _ => u.tickShutter core) s

/-- The planes and the WLD of a core, before its first resumed bundle. -/
def State.reloadPlanes (s : State) (core : Nat) : State :=
  let (s, a) := s.reloadPlane core (s.core core).active
  let (s, b) := s.reloadPlane core (s.core core).shadow
  (s.modCore core (fun k => { k with active := a, shadow := b })).restartWld core

/-- A context as it resumes: its blocked bundle is retried (R214); until then a SCRUB of it still counts as blocked (R348). -/
def Ctx.retried (c : Ctx) : Ctx := { c with block := none, woken := none }

/-- A core as it resumes: the limiter's window is empty (R214). -/
def Core.thaw (k : Core) : Core :=
  [0, 1, 2, 3].foldl (fun (k : Core) x => k.setCtx x (k.ctx x).retried) { k with weights := [] }

/-- Put the saved cores and windows back. -/
def State.restore (s : State) (v : Saved) : State :=
  let s := v.cores.foldl (fun (u : State) c => u.modCore c.1 (fun k => { c.2.thaw with clock := k.clock })) s
  let s := v.windows.foldl (fun (u : State) w => u.modCluster w.1 (fun k => { k with
    s := w.2.1.foldl (fun (m : Mem) e => m.put e.1 e.2) k.s
    stags := w.2.2.foldl (fun (m : SMap LineTag) e => m.set e.1 e.2) k.stags })) s
  { s with hist := v.hist ++ s.hist, ctrRels := v.ctrRels ++ s.ctrRels }

/-- Resume a descheduled partition on the cores it left; one that was never pre-empted starts to run. -/
def State.resume (s : State) (p : Nat) : State :=
  match s.saved.find? p with
  | none => s.setPartState p .running
  | some v =>
    if !s.imagesOk p v then { s with log := s.log ++ ([.resumeFailed p] : List LogEntry) }
    else
      let s := (s.perfAdd p 16 (s.imageReads p v)).restore (s.openSessions p v)
      let s := v.cores.foldl (fun (u : State) c => u.reloadPlanes c.1) s
      ({ s with saved := s.saved.erase p }).setPartState p .running

/-! ### The schedule timer (R250) -/

def State.setGroup (s : State) (i : Nat) (g : Group) : State := { s with groups := s.groups.set i g }

/-- TIME_SLICE_END: the running member of a group of several is pre-empted (R210, R250). -/
def execTimeSliceEnd (group : Nat) (s : State) : Out :=
  match s.groups[group]? with
  | none => .next s
  | some g =>
    match g.running with
    | none => .next s
    | some p =>
      if g.members.length ≤ 1 || (s.part p).state != .running then .next s
      else .next (s.preempt p).1

/-- The next member in ascending partition number after the one that ran last, in a circle. -/
def Group.next (g : Group) (ok : Nat → Bool) : Option Nat :=
  let ms := (distinct (g.members.map Prod.fst)).filter ok
  (ms.find? (fun m => g.turn < m)).orElse (fun _ => ms.head?)

/-- A layout change that is under way holds a partition that it names (R258). -/
def State.heldByChange (s : State) (p : Nat) : Bool :=
  match s.journal with
  | .idle => false
  | .preparing c _ => c.parts.any (fun e => e.1 = p)
  | .prepared c _ => c.parts.any (fun e => e.1 = p)
  | .committed c _ => c.parts.any (fun e => e.1 = p)

/-- A partition of a group still holds its cores: it runs, or its tasks are being terminated. -/
def State.groupBusy (s : State) (g : Group) : Bool :=
  g.members.any (fun m => (s.part m.1).state = .running || (s.part m.1).state = .stopping)

end Sys2Proof.Machine
end

