-- ==== Sys2Proof/Machine/Layout.lean ====
section
/-! DEFINITION. What the management core does to partitions: stopping them, changing the layout, and writing granule entries, key
slots and flow tables (R99, R220, R243, R247 to R259, R268, R272). -/

namespace Sys2Proof.Machine

/-! ### Stopping a partition (R204, R243, R272) -/

/-- A core of a partition has nothing left to complete. -/
def State.coreQuiet (s : State) (core : Nat) : Bool :=
  let k := s.core core
  k.ctxs.toList.all (fun c => c.task.isNone && c.ops.isEmpty) && k.queue.isEmpty && k.shutter.isNone && k.passes.isEmpty &&
  k.chans.toList.all List.isEmpty && k.sweeps.isEmpty && k.misc.isEmpty && !s.pubs.any (fun p => p.who.core = core) &&
  !s.advances.any (fun a => a.who.any (fun w => w.core = core)) && !s.fills.any (fun f => f.who.core = core) &&
  !s.colls.any (fun c => c.parts.any (fun p => !p.failed && p.who.any (fun w => w.core = core)))

/-- Every task of a partition is terminated with the cause its context last trapped with (R204). -/
def State.terminateAll (s : State) (p : Nat) : State :=
  (ctxsOf (s.part p).cores).foldl (fun (u : State) w =>
    if (u.ctx w).task.isSome && (u.ctx w).terminating.isNone then u.terminate w ((u.ctx w).trapCause.setWidth 8) else u) s

/-- The tasks of a pre-empted partition whose image cannot be read end where they were saved: each is logged as terminated (log 19). -/
def State.endSaved (s : State) (p : Nat) : State :=
  match s.saved.find? p with
  | none => s
  | some v =>
    let s := v.cores.foldl (fun (u : State) k =>
      [0, 1, 2, 3].foldl (fun (u : State) x =>
        let c := k.2.ctx x
        match c.task with
        | none => u
        | some info =>
          let u := u.faultLog p 4 (c.trapCause.toNat % 256) k.1 c.kslot.toNat info.taskAddr c.taskId.toNat c.trapPc.toNat
          match info.nest with
          | none => u
          | some (serial, _, tuple) => u.endBody serial tuple none) u) s
    { s with saved := s.saved.erase p }

/-- Scrub a granule: whole zero lines with fresh counters, counted as lines written (R242, R264). -/
def State.scrubGranule (s : State) (g : Nat) : State :=
  (List.range 1024).foldl (fun (u : State) i =>
    (u.writeHbmLine (g * 65536 + 64 * i) (List.replicate 64 0)).getD u)
    { s.perfAdd (granulePart (s.granule (g * 65536))) 17 1024 with hist := s.hist.filter (fun w => !(w.place = .hbm && w.addr / 65536 = g)) }

/-- The granules of a partition. -/
def State.granulesOf (s : State) (p : Nat) : List Nat :=
  (s.granules.filter (fun e => granuleV e.2.toNat && granulePart e.2.toNat = p)).map Prod.fst

/-- The SCRUBs that cover a partition's granules and its Cistern counters (R242, R243). -/
def State.scrubMemory (s : State) (p : Nat) : State :=
  let d := s.part p
  let s := (s.granulesOf p).foldl State.scrubGranule s
  [0, 1, 2, 3].foldl (fun (u : State) die =>
    let (base, n) := d.quota.getD die (0, 0)
    u.modDie die (fun x => { x with cistern := x.cistern.filter (fun e => !(base ≤ e.1 && e.1 < base + n)) })) s

/-- The SCRUBs that cover all that a partition holds: buffers and planes of its cores and its windows too. -/
def State.scrubPart (s : State) (p : Nat) : State := (s.vacate p (s.part p).cores).scrubMemory p

/-- Whether a schedule timer rotates a partition (R250). -/
def State.rotated (s : State) (p : Nat) : Bool :=
  s.groups.any (fun g => g.members.length > 1 && g.members.any (fun m => m.1 = p))

/-- A core of a partition is held by another one that runs on it or is being stopped. -/
def State.coresTaken (s : State) (p : Nat) : Bool :=
  s.parts.any (fun q => q.1 != p && (q.2.state = .running || q.2.state = .stopping) && q.2.cores.any (fun c => (s.part p).cores.contains c))

/-- The tasks of a partition begin to terminate, and its turn is over. -/
def State.beginStop (s : State) (p : Nat) : State := (((s.unfreeze p).terminateAll p).setPartState p .stopping).endTurn p

/-- One step of stopping a partition: its tasks are terminated and, once its cores are quiet, its resources scrubbed. A pre-empted one is
restored first, once its cores are free, so that what it had in flight completes (R204; that the stop waits for its cores is DEDUCED,
log 19). One that a layout change alters keeps its memory, and its cores but where the others of its group use them next (R258); a
pre-empted one holds nothing on its cores. -/
def State.stopStep (s : State) (keeps : Bool) (p : Nat) : State :=
  let d := s.part p
  let scrub (s : State) : State := if keeps then s else s.scrubMemory p
  match d.state with
  | .running => s.beginStop p
  | .descheduled =>
    (match s.saved.find? p with
    | none => (scrub s).setPartState p .configured
    | some v =>
      if !s.imagesOk p v then (scrub (s.endSaved p)).setPartState p .configured
      else if s.coresTaken p then s
      else ({ s.restore (s.openSessions p v) with saved := s.saved.erase p }).beginStop p)
  | .stopping =>
    if d.cores.all s.coreQuiet then
      (scrub (if keeps && !s.rotated p then s else s.vacate p d.cores)).setPartState p .configured
    else s
  | _ => s

/-- PARTITION_STOP (R272): the first occurrence terminates the tasks, a later one scrubs once they have retired. -/
def execPartitionStop (part : Nat) (s : State) : Out := .next (s.stopStep false part)

/-! ### Which layouts are refused (R247, R251, R254, R256, R258, R259) -/

def descPresent (d : PartDesc) : Bool := d.state != .free

/-- The descriptors with a change applied. -/
def layoutDescs (ch : LayoutChange) (s : State) : SMap PartDesc :=
  ch.parts.foldl (fun (m : SMap PartDesc) e => m.set e.1 e.2) s.parts

def layoutNamed (ch : LayoutChange) (p : Nat) : Bool := ch.parts.any (fun e => e.1 = p)

/-- The groups after a change (R250, R258): its own, and the others without the members that it names or regroups. -/
def layoutGroupsOf (ch : LayoutChange) (s : State) : List Group :=
  let moved (p : Nat) : Bool := layoutNamed ch p || ch.groups.any (fun g => g.any (fun m => m.1 = p))
  (s.groups.map (fun (g : Group) => { g with
    members := g.members.filter (fun m => !moved m.1), running := g.running.filter (fun p => !moved p) })).filter
      (fun g => !g.members.isEmpty) ++
  ch.groups.map (fun g => ({ members := g, turn := 63
                             running := (g.map Prod.fst).find? (fun p => !layoutNamed ch p && (s.part p).state = .running) } : Group))

/-- Two partitions share a time-share group after a change. -/
def layoutGrouped (ch : LayoutChange) (s : State) (p q : Nat) : Bool :=
  (layoutGroupsOf ch s).any (fun g => g.members.any (fun m => m.1 = p) && g.members.any (fun m => m.1 = q))

/-- No two ranges of a list meet. -/
def apart (xs : List (Nat × Nat)) : Bool :=
  match xs with
  | [] => true
  | x :: rest => rest.all (fun y => !overlaps x.1 x.2 y.1 y.2) && apart rest

/-- What a descriptor names on each die (R16, R212, R248, R270): nothing on a die that is absent, a save area in the die's local pool where it
has cores and none elsewhere, and counters that exist. -/
def descDie (d : PartDesc) (s : State) (die : Nat) : Bool :=
  let cs := d.cores.filter (fun c => dieOf c = die)
  let area := d.saveArea.getD die 0
  let quota := d.quota.getD die (0, 0)
  let pool := s.localPool * 1073741824
  (s.diePresent die || (area = 0 && quota.2 = 0)) && quota.1 + quota.2 ≤ 65536 && quota.2 ≤ 65535 &&
  (if cs.isEmpty then area = 0 else area != 0 && area % 64 = 0 && die * pool ≤ area &&
    area + saveLen cs.length (cs.map clusterOf).eraseDups.length ≤ (die + 1) * pool)

/-- A handle of a descriptor names a counter of the partition's own quota (R209, R247, R248). -/
def descCounter (d : PartDesc) (s : State) (h : Word) : Bool :=
  match handleHome h with
  | .cistern die i => s.diePresent die && (d.quota.getD die (0, 0)).1 ≤ i && i < (d.quota.getD die (0, 0)).1 + (d.quota.getD die (0, 0)).2
  | _ => false

/-- The ranges of package memory that a descriptor holds for itself (R118, R212, R247 to R249): base and length. A table whose base is 0 is
none (log 11). -/
def descRanges (d : PartDesc) : List (Nat × Nat) :=
  [(d.overflowBase, d.overflowLen), (d.faultLog, 32 * 2 ^ d.faultLogK), (d.engineRing, 32 * 2 ^ d.engineRingK)] ++
  ([(d.placementBase, 256), (d.collBase, 16 * d.collLen), (d.flowBase, 16384), (d.tenantBase, 2 * d.taskLen)].filter (fun r => r.1 != 0)) ++
  (List.range 4).filterMap (fun die =>
    let cs := d.cores.filter (fun c => dieOf c = die)
    let area := d.saveArea.getD die 0
    if area = 0 then none else some (area, saveLen cs.length (cs.map clusterOf).eraseDups.length))

/-- A range of package memory lies in no granule of another partition (R99, R247). -/
def State.rangeOwned (s : State) (p : Nat) (r : Nat × Nat) : Bool :=
  !s.granules.any (fun g => granuleV g.2.toNat && granulePart g.2.toNat != p && overlaps r.1 r.2 (g.1 * 65536) 65536)

/-- The fields of a descriptor are legal (R12, R16, R192, R247, R248, R270): its ranges lie in HBM that is present and in no
granule of another partition, its memory key is a slot of its own, and its fault counters are its own. -/
def descLegal (p : Nat) (d : PartDesc) (s : State) : Bool :=
  !descPresent d ||
  (1 ≤ d.taskLen && d.taskLen ≤ 65536 && d.taskBase % 64 = 0 && d.collLen ≤ 4096 && d.overflowBase % 2097152 = 0 &&
   d.overflowLen % 2097152 = 0 && 6 ≤ d.faultLogK && d.faultLogK ≤ 15 && 6 ≤ d.engineRingK && d.engineRingK ≤ 15 &&
   d.wellShare ≤ 64 && 6 ≤ d.ringK && d.ringK ≤ 16 && d.poolShare ≤ 8192 && d.tenantBase % 2 = 0 &&
   (descRanges d).all (fun r => r.1 + r.2 ≤ s.hbmSize && s.rangeOwned p r) && (s.key d.memKey.toNat).ty = 1 && (s.key d.memKey.toNat).part.toNat = p &&
   [d.launchCtr, d.memoryCtr, d.engineCtr, d.taskCtr].all (descCounter d s) &&
   (List.range 4).all (descDie d s) &&
   d.cores.all (fun c => c < 1024 && s.diePresent (dieOf c)) && decide d.cores.Nodup)

/-- Core sets are disjoint, or identical in one group (R247, R250). -/
def coresApart (ch : LayoutChange) (s : State) (ps : List (Nat × PartDesc)) : Bool :=
  match ps with
  | [] => true
  | (p, d) :: rest =>
    rest.all (fun e => !(d.cores.any (fun c => e.2.cores.contains c)) || (layoutGrouped ch s p e.1 && distinct d.cores = distinct e.2.cores)) &&
    coresApart ch s rest

/-- Memory keys and the ranges of package memory belong to one partition each (R247). -/
def memoryApart (ps : List (Nat × PartDesc)) : Bool :=
  decide (ps.map (fun e => e.2.memKey)).Nodup && apart ((ps.flatMap (fun e => descRanges e.2)).filter (fun r => r.2 != 0))

/-- The bits of a window register that are not reserved (R251). -/
def windowMask : Word := 0xBF1F

/-- A window register's range, in units of 128 KiB. -/
def windowRange (w : Word) : Nat × Nat := (bitsOf w.toNat 0 5, bitsOf w.toNat 8 6)

/-- The cores of a cluster that a partition holds after a change. -/
def layoutHeld (ch : LayoutChange) (s : State) (cl p : Nat) : Nat :=
  (((layoutDescs ch s).get PartDesc.none p).cores.filter (fun c => clusterOf c = cl)).length

/-- A window register that a change writes (R251): of a partition that holds cores of the cluster, inside the cluster, and of 1 to 32 units where
it is assigned. -/
def windowLegal (ch : LayoutChange) (s : State) (cl p : Nat) (w : Word) : Bool :=
  let r := windowRange w
  r.1 + r.2 ≤ 32 && (1 ≤ r.2 || !w.getLsbD 15) && layoutHeld ch s cl p != 0

/-- Windows of one cluster (R93, R251): of partitions that hold cores of it, inside the cluster, and apart but within a group. -/
def windowsApart (ch : LayoutChange) (s : State) (cl : Nat) (ws : List (Nat × Word)) : Bool :=
  match ws with
  | [] => true
  | (p, w) :: rest =>
    let r := windowRange w
    1 ≤ r.2 && r.1 + r.2 ≤ 32 && layoutHeld ch s cl p != 0 &&
    rest.all (fun e => layoutGrouped ch s p e.1 || !overlaps r.1 r.2 (windowRange e.2).1 (windowRange e.2).2) && windowsApart ch s cl rest

/-- A named partition is gone from a cluster after a change, and its window register there with it. -/
def layoutLeaves (ch : LayoutChange) (s : State) (cl p : Nat) : Bool :=
  layoutNamed ch p && (!descPresent ((layoutDescs ch s).get PartDesc.none p) || layoutHeld ch s cl p = 0)

/-- The valid windows of a cluster after a change. -/
def layoutWindowsOf (ch : LayoutChange) (s : State) (cl : Nat) : List (Nat × Word) :=
  ((ch.windows.filter (fun e => e.1 = cl)).foldl (fun (m : SMap Word) e => m.set e.2.1 e.2.2)
    ((s.cluster cl).windows.filter (fun e => !layoutLeaves ch s cl e.1))).filter (fun e => e.2.getLsbD 15)

/-- A named partition that holds a whole cluster has its 4 MiB (R93, R251). -/
def wholeWindows (ch : LayoutChange) (s : State) (cl : Nat) : Bool :=
  ch.parts.all (fun e => !descPresent e.2 || layoutHeld ch s cl e.1 < 16 ||
    (layoutWindowsOf ch s cl).any (fun w => w.1 = e.1 && windowRange w.2 = (0, 32)))

/-- The bands of a slice after a change: a partition that it removes has none (log 39). -/
def layoutBandsOf (ch : LayoutChange) (s : State) (j : Nat) : SMap Band :=
  ((ch.bands.filter (fun e => e.1 = j)).foldl (fun (m : SMap Band) e => m.set e.2.1 e.2.2) (s.slice j).bands).filter (fun e =>
    descPresent ((layoutDescs ch s).get PartDesc.none e.1))

/-- The clusters whose windows a change touches: those it writes, and those where a named partition holds cores before or after it. -/
def layoutClusters (ch : LayoutChange) (s : State) : List Nat :=
  distinct (ch.windows.map (fun e => e.1) ++ ch.parts.flatMap (fun e => ((s.part e.1).cores ++ e.2.cores).map clusterOf))

def bandLegal (b : Band) : Bool := b.floor ≤ b.ceiling && 1 ≤ b.weight && b.weight ≤ 255

/-- Shares that the partitions of a layout sum to. -/
def sumBy (ps : List (Nat × PartDesc)) (f : PartDesc → Nat) : Nat := ps.foldl (fun n e => n + f e.2) 0

/-- A control register after a change: DEFCORE and TSLOT belong to PART (R256). -/
def layoutIfaceOk (ch : LayoutChange) (s : State) (w : Word) : Bool :=
  let p := ctlPart w
  let d := (layoutDescs ch s).get PartDesc.none p.toNat
  let k := s.key (ctlTslot w).toNat
  descPresent d && d.cores.contains (ctlDefcore w).toNat && k.ty = 2 && k.part = p

/-- The control register of an interface. -/
def Iface.control (f : Iface) : Word := f.part.setWidth 24 ++ 0#17 ++ f.tslot ++ f.defcore

/-- The interfaces of a change: each one's old and new partition is named, and those of named partitions agree with them afterwards: one that
the change writes is written in CONFIG_UNLOCKED alone (R265), and one of a partition that is removed must stand there too, since its
control register is cleared (log 70). -/
def layoutIfacesOk (ch : LayoutChange) (s : State) : Bool :=
  ch.ifaces.all (fun e => e.1 < 256 && layoutNamed ch (ctlPart e.2).toNat && layoutIfaceOk ch s e.2 &&
    ((s.iface e.1).st = 0 || layoutNamed ch (s.iface e.1).part.toNat)) &&
  s.ifaces.all (fun f => f.2.st = 0 || !layoutNamed ch f.2.part.toNat ||
    (f.2.tdi = 0 && (ch.ifaces.any (fun e => e.1 = f.1) || !descPresent ((layoutDescs ch s).get PartDesc.none f.2.part.toNat))) ||
    layoutIfaceOk ch s f.2.control)

/-- Ring entries of a change: of present dies, with the owner before and after named (R252, R258). -/
def layoutRingOk (ch : LayoutChange) (s : State) : Bool :=
  let owner (e : Byte) : Bool := !e.getLsbD 7 || layoutNamed ch (e.toNat % 64)
  ch.ring.all (fun e => e.1 < 4 && s.diePresent e.1 && e.2.1 < 256 && !e.2.2.getLsbD 6 && owner e.2.2 &&
    owner ((s.die e.1).ring.get 0 e.2.1))

/-- Time-share groups of a change (R250): up to eight members on an identical core set; one that is not named keeps its group. -/
def layoutGroupsOk (ch : LayoutChange) (s : State) : Bool :=
  let ds := layoutDescs ch s
  ch.groups.all (fun g => g.length ≤ 8 && decide (g.map Prod.fst).Nodup &&
    g.all (fun m => 1 ≤ m.2 && m.2 ≤ 1000000 &&
      (layoutNamed ch m.1 || s.groups.any (fun old => old.members.contains m &&
        old.members.all (fun x => layoutNamed ch x.1 || g.contains x)))) &&
    g.all (fun m => g.all (fun n => distinct (ds.get PartDesc.none m.1).cores = distinct (ds.get PartDesc.none n.1).cores)))

/-- A flow-table word that the management core may write (R12, R246, R268): of one of 64 partitions; its port is present, and the peer is authenticated and accepted. -/
def State.flowLegal (s : State) (part pkg : Nat) (w : Word) : Bool :=
  part < 64 && pkg < 1024 && s.portPresent (bitsOf w.toNat 59 3) && s.linkTrust.contains pkg && !s.policyRefuses.contains (part, pkg)

/-- A change that the management core accepts: no overlap, no floor sum above 1,024, no invalid field, and no resource of a
partition that it does not name (R247, R258, R259). -/
def layoutAccepted (ch : LayoutChange) (s : State) : Bool :=
  let ps := (layoutDescs ch s).filter (fun e => descPresent e.2)
  s.managed && ch.parts.all (fun e => e.1 < 64) &&
  ch.parts.all (fun e => descLegal e.1 e.2 s) && coresApart ch s ps && memoryApart ps &&
  ch.windows.all (fun e => layoutNamed ch e.2.1 && e.1 < 64 && s.diePresent (e.1 / 16) && windowLegal ch s e.1 e.2.1 e.2.2) &&
  (layoutClusters ch s).all (fun cl => windowsApart ch s cl (layoutWindowsOf ch s cl) && wholeWindows ch s cl) &&
  ch.bands.all (fun e => s.diePresent (sliceDie e.1) && layoutNamed ch e.2.1 && bandLegal e.2.2) &&
  (distinct (ch.bands.map (fun e => e.1))).all (fun j => ((layoutBandsOf ch s j).foldl (fun n e => n + e.2.floor) 0) ≤ 1024) &&
  layoutRingOk ch s &&
  [0, 1, 2, 3].all (fun die => apart ((ps.map (fun e => e.2.quota.getD die (0, 0))).filter (fun q => q.2 != 0))) &&
  sumBy ps PartDesc.wellShare ≤ 64 && sumBy ps PartDesc.poolShare ≤ 8192 && layoutIfacesOk ch s && layoutGroupsOk ch s &&
  ch.flows.all (fun e => layoutNamed ch e.1 && s.flowLegal e.1 e.2.1 e.2.2)

/-! ### The two phases (R259) -/

/-- A named partition is stopped where the change removes it, moves it to other cores or moves one of its windows, and descheduled
otherwise. -/
def layoutStops (ch : LayoutChange) (s : State) (p : Nat) : Bool :=
  let old := s.part p
  let new := (layoutDescs ch s).get PartDesc.none p
  !descPresent new || distinct new.cores != distinct old.cores ||
  ch.windows.any (fun e => e.2.1 = p && e.2.2 &&& windowMask != (s.cluster e.1).windows.get 0 p)

/-- One step of quiescing a named partition, which keeps what the change leaves it unless it was being stopped before (R258). -/
def State.quiesceStep (s : State) (ch : LayoutChange) (old : List (Nat × PartDesc)) (p : Nat) : State :=
  let d := s.part p
  if layoutStops ch s p || d.state = .stopping then s.stopStep (!old.any (fun e => e.1 = p && e.2.state = .stopping)) p
  else if d.state = .running then (s.preempt p).1
  else s

/-- Everything that a named partition releases is scrubbed (R243, R258): cores and windows that it has not given up to another of its group,
and, where it is removed, its memory. -/
def State.scrubReleased (s : State) (ch : LayoutChange) (p : Nat) : State :=
  let old := s.part p
  let new := (layoutDescs ch s).get PartDesc.none p
  let gone := old.cores.filter (fun c => !descPresent new || !new.cores.contains c)
  let moved := (distinct (old.cores.map clusterOf)).filter (fun cl =>
    layoutLeaves ch s cl p || ch.windows.any (fun e => e.1 = cl && e.2.1 = p && e.2.2 &&& windowMask != (s.cluster cl).windows.get 0 p))
  let s := if s.coresTaken p then s
    else moved.foldl (fun (u : State) cl => u.zeroWindow (16 * cl) p) (gone.foldl (fun (u : State) c => u.modCore c Core.clear) s)
  if descPresent new then s else s.scrubMemory p

/-- A partition is at rest. -/
def State.atRest (s : State) (ch : LayoutChange) (p : Nat) : Bool :=
  let st := (s.part p).state
  st = .free || st = .configured || (st = .descheduled && !layoutStops ch s p)

/-- A waiter belongs to a partition: its context's task, its pool task or its nest does. -/
def State.waiterOf (s : State) (p : Nat) : Waiter → Bool
  | .ctx w .. => (s.ctx w).part = p
  | .task serial .. => s.dies.any (fun d => (d.2.pool ++ d.2.handed).any (fun t => t.serial = serial && t.launch.part = p))
  | .nest serial .. => s.dies.any (fun d => d.2.nests.any (fun n => n.serial = serial && n.launch.part = p))

/-- A partition that is gone leaves no launch, nest, waiter, cached page, flow or band behind, and its interfaces are unassigned (R120, R254,
R256; log 39). -/
def State.forgetPart (s : State) (p : Nat) : State :=
  { s with
    ifaces := s.ifaces.map (fun (f : Nat × Iface) => if f.2.part.toNat = p && f.2.st != 0 && f.2.tdi = 0 then (f.1, f.2.unassign) else f)
    flowTables := s.flowTables.erase p
    flows := s.flows.filter (fun f => f.1 / (2048 * 4096) != p)
    dies := s.dies.map (fun (d : Nat × Die) => (d.1, { d.2 with
      waiters := d.2.waiters.filter (fun w => !s.waiterOf p w)
      inbox := d.2.inbox.filter (fun l => l.part != p), handed := d.2.handed.filter (fun t => t.launch.part != p)
      pool := d.2.pool.filter (fun t => t.launch.part != p), nests := d.2.nests.filter (fun n => n.launch.part != p)
      dtc := d.2.dtc.filter (fun e => e.pasid != p), ats := d.2.ats.filter (fun r => r.miss.pasid != p)
      denied := d.2.denied.filter (fun m => m.1.pasid != p) }))
    slices := s.slices.map (fun (j : Nat × Slice) => (j.1, { j.2 with
      well := j.2.well.filter (fun e => e.launch.part != p), bands := j.2.bands.erase p }))
    colls := s.colls.filter (fun c => c.part != p) }

/-- The state a named partition takes in the new layout until it resumes. -/
def heldState (old new : PartState) : PartState :=
  match new with
  | .free => .free
  | _ => if old = .descheduled then .descheduled else .configured

/-- The counters that a partition releases or takes up on a die are zero (R117, R243). -/
def State.zeroQuota (s : State) (old new : PartDesc) (die : Nat) : State :=
  let inside (q : Nat × Nat) (i : Nat) : Bool := q.1 ≤ i && i < q.1 + q.2
  let o := old.quota.getD die (0, 0)
  let n := new.quota.getD die (0, 0)
  if o = n then s
  else s.modDie die (fun d => { d with cistern := d.cistern.filter (fun e => inside o e.1 == inside n e.1) })

/-- Entries of a table in package memory; none where it reaches beyond the memory. -/
def State.tableWords (s : State) (base size count : Nat) : List Nat :=
  if s.hbmSize < base + size * count then []
  else (List.range count).map (fun i => leNat (s.homeBytes .hbm (base + size * i) size))

/-- A descriptor with its tables loaded into the units that apply them (R181, R192, R248): placement map, tenant map, and the collective
groups with their ring lists. A table whose address is 0 is none (log 11). -/
def State.loadTables (s : State) (d : PartDesc) : PartDesc :=
  let table (base size count : Nat) : List Nat := if base = 0 then [] else s.tableWords base size count
  { d with
    placement := (table d.placementBase 2 128).map (BitVec.ofNat 16)
    tenantMap := (table d.tenantBase 2 d.taskLen).map (BitVec.ofNat 16)
    collGroups := (table d.collBase 16 d.collLen).map (fun e =>
      let n := bitsOf e 0 16
      (n, (s.tableWords (e / 2 ^ 64) 4 n).map (BitVec.ofNat 32))) }

/-- Write one named descriptor; a partition created now counts its events from zero (R264), and one that leaves a cluster leaves no window
there (R251). -/
def State.writePart (s : State) (p : Nat) (d : PartDesc) : State :=
  let old := s.part p
  let left := (distinct (old.cores.map clusterOf)).filter (fun cl => !descPresent d || !d.cores.any (fun c => clusterOf c = cl))
  let s := [0, 1, 2, 3].foldl (fun (u : State) die => u.zeroQuota old d die) s
  let s := left.foldl (fun (u : State) cl => u.modCluster cl (fun k => { k with windows := k.windows.erase p })) s
  let s := if descPresent d then s else s.forgetPart p
  let s := if old.state = .free then
      { s with perf := s.perf.filter (fun e => e.1 / 32 != p), perfSample := s.perfSample.filter (fun e => e.1 / 32 != p) }
    else s
  s.setPart p { s.loadTables d with state := heldState old.state d.state }

/-- Write an interface's control register: a locked register, so outside CONFIG_UNLOCKED it is dropped and the interface enters ERROR
(R256, R265). -/
def Iface.layoutWrite (f : Iface) (w : Word) : Iface := if f.tdi = 0 then f.write w else f.fail

/-- The bits of a flow-table word that are not reserved (R268). -/
def flowMask : Word := 0xF800_1FFF_0000_0000

/-- Write a flow-table entry, in the unit and in the partition's table in memory; an idle flow of the partition takes its mode (R136, R248,
R268). -/
def State.writeFlow (s : State) (part pkg : Nat) (w : Word) : State :=
  let new := w &&& flowMask
  let unordered := bitsOf new.toNat 62 1 = 1
  let fix (f : Nat × Flow) : Nat × Flow :=
    if f.1 / 4096 = part * 2048 + pkg && f.2.items.isEmpty then (f.1, { f.2 with unordered }) else f
  let base := (s.part part).flowBase
  let s := if base = 0 then s
    else (s.performAll .hbm (base + 16 * pkg) (leBytes 8 new.toNat ++ List.replicate 8 0) .fabric .outside none).1
  { s with
    flowTables := s.flowTables.set part ((s.flowTables.get [] part).set pkg new)
    flows := s.flows.map fix }

/-- The flow table of a named partition is loaded from memory, where it has one; entries that the management core may not write stay out
(R246, R248, R268). -/
def State.loadFlows (s : State) (part : Nat) : State :=
  let base := (s.part part).flowBase
  if base = 0 then s
  else
    ((s.tableWords base 16 1024).map (fun e => BitVec.ofNat 64 e)).zipIdx.foldl (fun (u : State) e =>
      if e.1.getLsbD 63 && u.flowLegal part e.2 e.1 then u.writeFlow part e.2 e.1 else u)
      { s with flowTables := s.flowTables.erase part }

/-- The second phase: every unit takes its new value. Each write is absolute, so its repetition changes nothing but the reset of interfaces. -/
def State.writeLayout (s : State) (ch : LayoutChange) : State :=
  let groups := layoutGroupsOf ch s
  let s := ch.parts.foldl (fun (u : State) e => u.writePart e.1 e.2) s
  let s := ch.windows.foldl (fun (u : State) e => u.modCluster e.1 (fun k => { k with windows := k.windows.set e.2.1 (e.2.2 &&& windowMask) })) s
  let s := ch.ring.foldl (fun (u : State) e => u.modDie e.1 (fun d => { d with ring := d.ring.set e.2.1 e.2.2 })) s
  let s := (ch.bands.filter (fun e => descPresent (s.part e.2.1))).foldl (fun (u : State) e =>
    u.modSlice e.1 (fun j => { j with bands := j.bands.set e.2.1 e.2.2 })) s
  let s := ch.ifaces.foldl (fun (u : State) e => u.modIface e.1 (fun f => f.layoutWrite e.2)) s
  let s := ch.parts.foldl (fun (u : State) e => u.loadFlows e.1) s
  let s := ch.flows.foldl (fun (u : State) e => if u.flowLegal e.1 e.2.1 e.2.2 then u.writeFlow e.1 e.2.1 e.2.2 else u) s
  { s with groups }

/-- Every interface that a change writes or leaves without a partition stands in CONFIG_UNLOCKED, so that its registers can take their new
values (R256, R259, R265): one that has entered ERROR must be stopped first (DESIGN CHOICE, log 93). -/
def State.ifacesOpen (s : State) (ch : LayoutChange) : Bool :=
  ch.ifaces.all (fun e => (s.iface e.1).tdi = 0) &&
  s.ifaces.all (fun f => f.2.st = 0 || f.2.tdi = 0 || !ch.parts.any (fun e => e.1 = f.2.part.toNat && !descPresent e.2))

/-- The second phase, once every interface can take it: the units are written, and the journal records it (R259). -/
def State.commitLayout (s : State) (ch : LayoutChange) (old : List (Nat × PartDesc)) : State :=
  if s.ifacesOpen ch then { s.writeLayout ch with journal := .committed ch old } else s

/-- Resume the named partitions that are to run and that no schedule timer rotates (R214, R259). -/
def State.resumeNamed (s : State) (ch : LayoutChange) : State :=
  ch.parts.foldl (fun (u : State) e =>
    if e.2.state != .running then u
    else if u.rotated e.1 then
      (if (u.part e.1).state = .configured then u.setPartState e.1 .descheduled else u)
    else u.resume e.1) s

/-- Roll a change back: the named partitions that were in service resume on their old layout (R259). One that still ends its tasks holds its
cores and runs on; one of a group that has given them up waits for its turn (R250). -/
def State.rollBack (s : State) (old : List (Nat × PartDesc)) : State :=
  old.foldl (fun (u : State) e =>
    if e.2.state != .running && e.2.state != .descheduled then u
    else
      match (u.part e.1).state with
      | .free => u
      | .running => u.unfreeze e.1
      | .stopping => (u.setPartState e.1 .running).startTurn e.1
      | .descheduled => if u.rotated e.1 then u else u.resume e.1
      | .configured => u.setPartState e.1 (if u.rotated e.1 then .descheduled else .running)) { s with journal := .idle }

/-! ### The schedule timer resumes a member (R227, R250) -/

/-- The dies that hold a granule's home slices (R98): one for a granule of a local pool, every present one for one of the shared pool. -/
def State.granuleDies (s : State) (g : Nat) : List Nat :=
  if g * 65536 < s.dieCount * (s.localPool * 1073741824) then [sliceDie (s.sliceOf (g * 65536))]
  else (List.range 4).filter s.diePresent

/-- The links that a partition uses: those on the routes between the dies of its cores and each die that holds its cores, its granules or
its counters, and between them and the I/O die, in both directions (R227; which traffic counts as use is DEDUCED, log 22). -/
def State.usesLink (s : State) (p : Nat) (link : Nat) : Bool :=
  let d := s.part p
  let from' := (d.cores.map dieOf).eraseDups
  let to' := ((from' ++ (List.range 4).filter (fun i => (d.quota.getD i (0, 0)).2 != 0) ++
    (s.granules.filter (fun g => granuleV g.2.toNat && granulePart g.2.toNat = p)).flatMap (fun g => s.granuleDies g.1)).eraseDups) ++ [ioDie]
  from'.any (fun a => to'.any (fun b => (s.route a b).contains link || (s.route b a).contains link))

/-- A link that a partition uses is down: it is to be stopped (R227). -/
def State.linkLost (s : State) (p : Nat) : Bool := s.links.any (fun l => l.2.down && s.usesLink p l.1)

/-- PARTITION_RESUME: with the cores of the group free, the next descheduled member resumes (R214, R250); one that has lost a link while others
held its cores is stopped then instead (R227). -/
def execPartitionResume (group : Nat) (s : State) : Out :=
  match s.groups[group]? with
  | none => .next s
  | some g =>
    if s.groupBusy g then .next s
    else
      match g.next (fun m => (s.part m).state = .descheduled && !s.heldByChange m) with
      | none => .next s
      | some p =>
        if s.linkLost p then .next (s.stopStep false p)
        else
          let t := s.resume p
          .next (t.setGroup group { g with running := if (t.part p).state = .running then some p else none, turn := p })

/-! ### The journal (R259) -/

/-- LAYOUT_CHANGE: the change enters its next journal state, as far as it can (R258, R259). -/
def execLayoutChange (ch : LayoutChange) (s : State) : Out :=
  match s.journal with
  | .idle =>
    if layoutAccepted ch s then .next { s with journal := .preparing ch (ch.parts.map (fun e => (e.1, s.part e.1))) }
    else .next { s with log := s.log ++ ([.refusedLayout ch.serial] : List LogEntry) }
  | .preparing c old =>
    let s := c.parts.foldl (fun (u : State) e => u.quiesceStep c old e.1) s
    .next (if c.parts.all (fun e => s.atRest c e.1) then
        { c.parts.foldl (fun (u : State) e => u.scrubReleased c e.1) s with journal := .prepared c old }
      else s)
  | .prepared c old => .next (s.commitLayout c old)
  | .committed c _ => .next { s.resumeNamed c with journal := .idle }

/-- WATCHDOG_RESET: the management core restarts and recovers by its journal; everything else runs on (R259). -/
def execWatchdogReset (s : State) : Out :=
  match s.journal with
  | .idle => .next s
  | .preparing _ old => .next (s.rollBack old)
  | .prepared c old => .next (s.commitLayout c old)
  | .committed c _ => .next { s.resumeNamed c with journal := .idle }

/-! ### Granules, key slots, flow tables (R99, R220, R243, R268) -/

/-- The bits of a granule entry that are not reserved (R99). -/
def granuleMask : BitVec 32 := 0x1FFF3F0F

/-- The pages that any cache maps into a granule. -/
def State.pagesInto (s : State) (g : Nat) : List DtcEntry :=
  s.dies.flatMap (fun d => d.2.dtc.filter (fun e => match e.dest with
    | .hbm a => overlaps a (2 ^ e.logSize) (g * 65536) 65536
    | _ => false))

/-- A granule has been assigned, or some line of it has been written or has failed. -/
def State.granuleUsed (s : State) (g : Nat) : Bool :=
  granuleV (s.granule (g * 65536)) || s.hbm.any (fun c => c.1 / 65536 = g) || s.lineKeys.any (fun l => l.1 / 1024 = g) ||
  s.badLines.any (fun l => l / 1024 = g)

/-- A granule would be assigned to a partition while another one's descriptor, as it is or as a change under way makes it, holds a range in it
(R99, R247). -/
def State.granuleTaken (s : State) (granule : Nat) (new : Nat) : Bool :=
  let ds := (s.parts ++ ((s.pendingChange.map (fun c => c.parts)).getD [])).filter (fun e => descPresent e.2 && e.1 != granulePart new)
  granuleV new && ds.any (fun e => (descRanges e.2).any (fun r => overlaps r.1 r.2 (granule * 65536) 65536))

/-- GRANULE_ENTRY_WRITE: the caches are invalidated first, and the entry changes once no access through them is left; a granule in use
that passes to another partition is scrubbed first (R99, R218, R243). There are entries for the HBM of the dies present (R12, R16), and
none is given to a partition where another's descriptor holds a range (R247). -/
def execGranuleEntryWrite (granule : Nat) (w : BitVec 32) (s : State) : Out :=
  let es := s.pagesInto granule
  let t := s.flush es
  if !s.managed || s.dieCount * 2097152 ≤ granule || s.granuleTaken granule (w &&& granuleMask).toNat then .next s
  else if t.framesBusy es then .next t
  else
    let s := { t with dies := t.dies.map (fun (d : Nat × Die) => (d.1, { d.2 with dtc := d.2.dtc.filter (fun e => !es.contains e) })) }
    let old := s.granule (granule * 65536)
    let new := (w &&& granuleMask).setWidth 64
    let s := if s.granuleUsed granule && granulePart old != granulePart new.toNat then s.scrubGranule granule else s
    .next { s with granules := s.granules.set granule new }

/-- Write the RW fields of a key slot; type 7 is reserved and changes nothing. A slot that is freed or passes to another partition loses what
it held, which is what its SCRUB removes (R242, R243). -/
def KeySlot.writeDesc (k : KeySlot) (w : Word) : KeySlot :=
  let ty := w.extractLsb' 61 3
  let part := w.extractLsb' 55 6
  let alg := w.getLsbD 21
  if ty = 7 || (ty = k.ty && part = k.part && alg = k.alg) then k
  else
    let moved := k.ty != 0 && part != k.part
    let k := { k with ty, part, alg, edits := k.edits + 1 }
    if ty = 0 || moved then { k with pv := false, measurement := 0, grants := [] } else k

/-- Import a wrapped key: the measurement is SHA-384 of the wrapped blob, or of a seal slot's public key (R220); the version advances, and the
version before it is held as PVER where there was a key (R238; log 20). -/
def KeySlot.importKey (k : KeySlot) (blob : List Byte) (grants : List (BitVec 13)) : KeySlot :=
  if k.ty = 3 || k.ty = 6 then
    { k with pver := k.ver, pv := k.measurement != 0, ver := k.ver + 1, measurement := BitVec.ofNat 384 (leNat (sha384 blob)), grants := grants.take 16, edits := k.edits + 1 }
  else k

/-- A layout change under way uses a key slot: as a memory key, or as the tenant slot of an interface that it writes or whose partition it
names. The management core holds back a write of its descriptor (DESIGN CHOICE, log 93). -/
def State.slotHeld (s : State) (slot : Nat) : Bool :=
  s.pendingChange.any (fun c =>
    c.parts.any (fun e => descPresent e.2 && e.2.memKey.toNat = slot) || c.ifaces.any (fun e => (ctlTslot e.2).toNat = slot) ||
    s.ifaces.any (fun f => f.2.tslot.toNat = slot && f.2.owner.any (layoutNamed c)))

/-- What KEY_SLOT_WRITE writes is a descriptor. -/
def isDescWrite : KeyWrite → Bool
  | .descriptor _ => true
  | .importKey .. => false

/-- KEY_SLOT_WRITE (R220). -/
def execKeySlotWrite (slot : Nat) (w : KeyWrite) (s : State) : Out :=
  if slot ≥ 8192 || !s.managed || (isDescWrite w && s.slotHeld slot) then .next s
  else
    .next (s.modKey slot (fun k => match w with
      | .descriptor d => k.writeDesc d
      | .importKey blob g => k.importKey blob g))

/-- FLOW_TABLE_WRITE: refused for an absent port, or a peer that is not authenticated or not accepted; MODE and PORT of a valid entry change
only in a layout change (R246, R259, R268). -/
def execFlowTableWrite (part pkg : Nat) (w : Word) (s : State) : Out :=
  let old := s.flowEntry part pkg
  let moves := bitsOf old 63 1 = 1 && bitsOf w.toNat 63 1 = 1 && bitsOf old 59 4 != bitsOf w.toNat 59 4
  if !s.managed || moves || !s.flowLegal part pkg w then .next s else .next (s.writeFlow part pkg w)

end Sys2Proof.Machine
end

