-- ==== Sys2Proof/Machine/Links.lean ====
section
/-! DEFINITION. Links, flows and host windows: UCIe and UALink failures, flow delivery, peers, CXL.mem, SPDM and corrected errors
(R103, R136, R137, R227, R245, R246, R261, R269). -/

namespace Sys2Proof.Machine

/-- CORRECTABLE_ERROR: corrected and logged, with no architectural effect (R103). -/
def execCorrectableError (unit : Nat) (addr : Word) (s : State) : Out :=
  .next { s with log := s.log ++ ([.correctable unit addr.toNat] : List LogEntry) }

/-! ### CXL.mem windows (R261) -/

/-- A granule that a window may be opened onto: assigned, not sealed weights, PUB, and of a NONCONF partition. -/
def State.windowable (s : State) (dpa : Nat) : Bool :=
  let g := s.granule dpa
  granuleV g && !granuleSW g && granuleSens g = .pub && (s.part (granulePart g)).nonconf

/-- The management core opens a window: an HDM decoder of its own, onto granules that may have one (R260, R261; that it holds
whole granules is DESIGN CHOICE, log 74). -/
def State.openWindow (s : State) (decoder base len : Nat) : State :=
  if s.managed && len != 0 && base % 65536 = 0 && len % 65536 = 0 &&
      (List.range (len / 65536)).all (fun i => s.windowable (base + 65536 * i)) then
    { s with hdm := s.hdm.set decoder (base, len) }
  else s

/-- An address decodes to an open window, onto a granule that may still have one. -/
def State.windowOpen (s : State) (dpa : Nat) : Bool :=
  s.hdm.any (fun d => d.2.1 ≤ dpa && dpa < d.2.1 + d.2.2) && s.windowable dpa

/-- Every line of a range lies in an open window. -/
def State.windowsOpen (s : State) (dpa len : Nat) : Bool := (pieces dpa len).all (fun p => s.windowOpen p.1)

/-- Bytes of a window cross between its slice's die and the host: into the package, or out of it (R222, R227; in which stream is DESIGN CHOICE,
log 90). -/
def State.carryWindow (s : State) (dpa : Nat) (out : Bool) (bytes : List Byte) : State :=
  let die := sliceDie (s.sliceOf dpa)
  let stream := s.streamOf (granulePart (s.granule dpa))
  if out then (s.carryDie die ioDie bytes).crossCxl stream true bytes else (s.crossCxl stream false bytes).carryDie ioDie die bytes

/-- CXL_MEM_READ: the bytes of an open window, counted as lines read (R264); all-zero data and a log entry elsewhere (R261). A failed line
gives no data (DESIGN CHOICE, log 73). Before the link trains nothing is read (R271). -/
def execCxlMemRead (dpa len : Nat) (s : State) : Out :=
  if !s.managed then .next { s with reply := [] }
  else if s.windowsOpen dpa len then
    let bytes := if s.rangeOk .hbm dpa len then s.hbm.bytes dpa len else []
    .next { ((s.carryWindow dpa false []).carryWindow dpa true bytes).perfAdd (granulePart (s.granule dpa)) 16 (pieces dpa len).length with
      reply := bytes }
  else .next { s with reply := List.replicate len 0, log := s.log ++ ([.cxlMem dpa false] : List LogEntry) }

/-- CXL_MEM_WRITE: performed at the home slice and published at package scope; dropped and logged elsewhere (R261). -/
def execCxlMemWrite (dpa : Nat) (bytes : List Byte) (s : State) : Out :=
  if !s.managed then .next s
  else if s.windowsOpen dpa bytes.length then .next ((s.carryWindow dpa false bytes).performAll .hbm dpa bytes .package .outside none).1
  else .next { s with log := s.log ++ ([.cxlMem dpa true] : List LogEntry) }

/-! ### SPDM and peers (R245, R246) -/

/-- The device identity keys of this boot (R219): derived from the device unique secret and the firmware measurement; no path returns them. -/
def State.identity (s : State) : BitVec 384 := Config.identityKey Config.deviceSecret s.firmware

/-- SPDM_REQUEST: the report of a measurement block, and for block 0, which is no block, the certificate chain that ends in the device
identity key (R245; that the operand 0 asks for it is DESIGN CHOICE, log 71). It answers once the link has trained; after a failed signature
check, which comes before the keys, it reports the measurements alone (R271). -/
def execSpdmRequest (block : Nat) (s : State) : Out :=
  .next { s with reply :=
    if !(s.managed || (s.bootFailed.isSome && block != 0)) then [] else
    if block = 0 then Config.certificateChain s.identity else leBytes 48 (s.measurements.get 0 block).toNat }

/-- The report that a partition's tenants get includes NONCONF (R248); its layout is not given, and here it is the flags byte
(DESIGN CHOICE, log 73). -/
def State.partReport (s : State) (part : Nat) : State := { s with reply := [BitVec.ofNat 8 (s.part part).nonconf.toNat] }

/-- Whether a peer's measurements match the policy of one of the 64 partitions: one whose do not receives no flows (R12, R246). -/
def State.peerPolicy (s : State) (part pkg : Nat) (accepted : Bool) : State :=
  if 64 ≤ part then s else
  let rest := s.policyRefuses.filter (fun e => e != (part, pkg))
  if accepted then { s with policyRefuses := rest }
  else { s with policyRefuses := rest ++ [(part, pkg)], flowTables := s.flowTables.set part ((s.flowTables.get [] part).set pkg 0) }

/-- PEER_KEY_AGREEMENT: two link keys are installed where the peer is authenticated; a peer that is refused receives no flows
(R246). -/
def execPeerKeyAgreement (pkg txSlot rxSlot : Nat) (trusted : Bool) (s : State) : Out :=
  if !trusted then
    .next { s with
      linkTrust := s.linkTrust.filter (fun k => k != pkg), log := s.log ++ ([.peerRefused pkg] : List LogEntry)
      flowTables := s.flowTables.map (fun (t : Nat × SMap Word) => (t.1, t.2.map (fun e => if e.1 = pkg then (e.1, 0) else e))) }
  else if !s.managed || (s.key txSlot).ty != 4 || (s.key rxSlot).ty != 4 || txSlot = rxSlot then .next s
  else
    .next { (s.modKey txSlot KeySlot.newLink).modKey rxSlot KeySlot.newLink with
      linkTrust := insertNat pkg s.linkTrust, peerLinks := s.peerLinks.set pkg (txSlot, rxSlot) }

/-! ### Links of the dies and their failures (R8, R227, R269) -/

/-- The ends of a UCIe link direction: link 5 a + b carries flits from die a to die b, with 4 for the I/O die (log 22). -/
def linkEnds (link : Nat) : Nat × Nat := (link / 5, link % 5)

/-- The links that exist (R8): row neighbours, column neighbours, and each compute die with the I/O die. -/
def State.linkExists (s : State) (link : Nat) : Bool :=
  let (a, b) := linkEnds link
  a < 5 && a != b && (a = ioDie || s.diePresent a) && (b = ioDie || s.diePresent b) &&
  (a = ioDie || b = ioDie || a ^^^ b = 1 || a ^^^ b = 2)

/-- The partitions that use a link. -/
def State.linkUsers (s : State) (link : Nat) : List Nat :=
  (s.parts.filter (fun p => (p.2.state = .running || p.2.state = .descheduled) && s.usesLink p.1 link)).map Prod.fst

/-- FLIT_TAG_FAILURE: the flit is replayed; its eighth failure takes the link down, and the partitions using it are stopped
(R227), a descheduled one whose cores are taken when its turn comes (PARTITION_RESUME). -/
def execFlitTagFailure (link : Nat) (s : State) : Out :=
  let l := s.links.get Link.reset link
  if l.down || !s.linkExists link then .next s
  else if l.failures + 1 < 8 then .next { s with links := s.links.set link { l with failures := l.failures + 1 } }
  else .next ((s.linkUsers link).foldl (State.stopStep · false) { s with links := s.links.set link { l with failures := 8, down := true } })

/-- UALINK_PORT_DOWN: no flow uses the port any more; commands that reach for it meet a denial and fail under R170 (R227,
R268). -/
def execUalinkPortDown (port : Nat) (s : State) : Out := .next { s with ports := insertNat (port % 8) s.ports }

/-! ### Flows (R136, R137) -/

/-- Perform an item at its home, where it leaves its flow; none where it must still wait. What answers is performed by its own event (a load
as it returns, a fill, a counter advance). -/
def State.deliver (s : State) (i : FlowItem) : Option State :=
  match i with
  | .load .. | .fill .. | .advance _ | .coll .. => none
  | .store pub t =>
    (match s.pubs.find? (fun p => p.id = pub) with
    | none => some (s.leaveFlows i)
    | some p => if !p.stores.contains t then some (s.leaveFlows i) else if s.storeReady p t then some (s.performPub p t) else none)
  | .red w id =>
    match (s.ctx w).ops.findIdx? (fun o => o.id = id) with
    | none => some (s.leaveFlows i)
    | some n =>
      match (s.ctx w).ops[n]? with
      | none => some (s.leaveFlows i)
      | some o =>
        match o.kind with
        | .red p a wide fn v =>
          if !s.homeReady w n o then none
          else
            let n := atomBytes (!wide)
            some ((s.rmw w o p a n (fun m => some (amoFn fn wide m (v.toNat % 2 ^ (8 * n))))).1.redDone w o)
        | _ => some (s.leaveFlows i)

/-- FLOW_DELIVERY: the destination performs item i of a flow: the oldest of an ordered flow, any of an unordered one but for what
carries a release. Nothing moves through a port that is down, nor in D3hot (R273). -/
def execFlowDelivery (flow i : Nat) (s : State) : Out :=
  let f := s.flows.get Flow.reset flow
  match f.items[i]? with
  | none => .next s
  | some (_, item) =>
    if s.power != .d0 || (i != 0 && (!f.unordered || s.carriesRelease item)) then .next s
    else if flowDest flow < 1024 && !s.flowOpen (flowPart flow) (flowDest flow) then .next s
    else
      match item with
      | .coll .. => .next (s.popFlow flow i)
      | _ => .next ((s.deliver item).getD s)

/-! ### Flows that end in this package (R137) -/

def InFlow.reset : InFlow := { unordered := false, next := 0, held := [], done := [] }

/-- A sequence number has been received before: it is held, or it was performed. -/
def InFlow.duplicate (f : InFlow) (seq : BitVec 32) : Bool :=
  f.held.any (fun e => e.1 = seq) || f.done.contains seq || (seq != f.next && 2147483648 ≤ (seq - f.next).toNat)

/-- The data that a request of a peer carries. -/
def PeerItem.bytes : PeerItem → List Byte
  | .load .. => []
  | .coll _ _ _ _ _ _ _ bytes => bytes
  | .store _ bytes => bytes
  | .red _ wide _ v => leBytes (if wide then 8 else 4) v.toNat

/-- The port of a package's traffic into this one: that of the first partition with a flow to it. No rule says which port that is (DESIGN
CHOICE, log 90). -/
def State.portOf (s : State) (pkg : Nat) : Nat :=
  ((List.find? (fun (t : Nat × SMap Word) => bitsOf (t.2.get 0 pkg).toNat 63 1 = 1) s.flowTables).map (fun t =>
    bitsOf (t.2.get 0 pkg).toNat 59 3)).getD 0

/-- A request of an authenticated package arrives under its link key at the reorder buffer, which discards a duplicate (R137, R227, R246). -/
def State.peerArrives (s : State) (key : Nat) (unordered : Bool) (seq : BitVec 32) (rel : Bool) (item : PeerItem) : State :=
  let pkg := key / 4096
  if !s.managed || !s.linkTrust.contains pkg || !s.keyFresh (s.peerSlot pkg) then s
  else
    let s := s.crossPort item.bytes (portLink false (s.portOf pkg)) (s.peerSlot pkg)
    let f := s.inFlows.get { InFlow.reset with unordered } key
    if f.duplicate seq then s
    else { s with inFlows := s.inFlows.set key { f with held := f.held ++ [(seq, rel, item)] } }

/-- The lowest number not performed, past those that are. -/
def InFlow.settle (f : InFlow) : Nat → InFlow
  | 0 => f
  | n + 1 => if f.done.contains f.next then InFlow.settle { f with next := f.next + 1, done := f.done.filter (fun x => x != f.next) } n else f

/-- Bytes cross between the I/O die, where a package's traffic comes in, and a home in HBM. -/
def State.carryHome (s : State) (a : Nat) (out : Bool) (bytes : List Byte) : State :=
  let die := sliceDie (s.sliceOf a)
  if out then s.carryDie die ioDie bytes else s.carryDie ioDie die bytes

/-- A line that a peer loads is read at its home, counts as read there (R264), and its bytes go back under the link key to the package. -/
def State.peerLoad (s : State) (pkg a n : Nat) : State :=
  let bytes := if s.rangeOk .hbm a n then s.homeBytes .hbm a n else []
  let s := (((s.carryHome a false []).carryHome a true bytes).perfAdd (granulePart (s.granule a)) 16 1)
  s.crossPort bytes (portLink true (s.portOf pkg)) (s.peerLinks.get (0, 0) pkg).1

/-- A peer's request is performed at its home, in HBM that is present (R12, R16), and published at fabric scope (R97, R125); a load is
answered, line by line, and a segment of a collective is a rank's part where the group gives the rank to another package (R175, R177). -/
def State.peerPerform (s : State) (pkg : Nat) : PeerItem → State
  | .load a n => if s.hbmSize < a + n then s else (cutLines (n + 1) a (List.replicate n 0)).foldl (fun (u : State) p =>
      u.peerLoad pkg p.1 p.2.length) s
  | .coll part group rank op ty n sens bytes =>
    if s.rankAway part group rank then s.addPart part group (remotePart rank op ty n sens bytes) else s
  | .store a bs => if s.hbmSize < a + bs.length then s else ((s.carryHome a false bs).performAll .hbm a bs .fabric .outside none).1
  | .red a wide fn v =>
    let n := atomBytes (!wide)
    if s.hbmSize < a + n then s else
    (((s.carryHome a false (leBytes n v.toNat)).perfAdd (granulePart (s.granule a)) 16 1).performAll .hbm a (leBytes n (amoFn fn wide (leNat (s.homeBytes .hbm a n)) (v.toNat % 2 ^ (8 * n)))) .fabric .outside none).1

/-- The link key to a package can carry the answer of a request (R246). -/
def State.mayAnswer (s : State) (pkg : Nat) : PeerItem → Bool
  | .load _ n => (s.key (s.peerLinks.get (0, 0) pkg).1).flits + n < 2 ^ 40
  | _ => true

/-- Request i of a reorder buffer is delivered: on an ordered flow in sequence order, on an unordered one in any order but for a request that
carries a release, which follows every earlier one (R137). None is before the link trains (R271). -/
def State.peerDelivers (s : State) (key i : Nat) : State :=
  let f := s.inFlows.get InFlow.reset key
  if !s.managed then s else
  match f.held[i]? with
  | none => s
  | some (seq, rel, item) =>
    if ((!f.unordered || rel) && seq != f.next) || !s.mayAnswer (key / 4096) item then s
    else
      let f := InFlow.settle { f with held := f.held.eraseIdx i, done := f.done ++ [seq] } (f.done.length + 1)
      { s.peerPerform (key / 4096) item with inFlows := s.inFlows.set key f }

end Sys2Proof.Machine
end

