-- ==== Sys2Proof/Machine/Power.lean ====
section
/-! DEFINITION. Power, reset and bring-up, and the metering at the slices (R15, R16, R45, R50, R254, R255, R271 to R274). -/

namespace Sys2Proof.Machine

/-! ### Power limits (R45, R273, R274) -/

/-- The cores of the dies present. -/
def State.presentCores (s : State) : List Nat := ([0, 1, 2, 3].filter s.diePresent).flatMap (fun d => (List.range 256).map (fun i => 256 * d + i))

/-- The management core writes PWRLIM of a core; it replaces the value saved for every partition that shares the core, so none brings an
old limit back (R14, R45). -/
def State.setLimit (s : State) (core : Nat) (limit : BitVec 16) : State :=
  let t := s.modCore core (fun k => { k with pwrlim := limit })
  { t with saved := t.saved.map (fun (v : Nat × Saved) => (v.1, { v.2 with
      cores := v.2.cores.map (fun (c : Nat × Core) => if c.1 = core then (c.1, { c.2 with pwrlim := limit }) else c) })) }

/-- Set limits on cores; a 1 ms interval in which one is lowered is counted once (R274). -/
def State.setLimits (s : State) (ls : List (Nat × BitVec 16)) : State :=
  let lowered := ls.any (fun l => l.2.toNat < (s.core l.1).pwrlim.toNat)
  let t := ls.foldl (fun (u : State) l => u.setLimit l.1 l.2) s
  { t with pwrLowered := s.pwrLowered + (lowered && !s.pwrMarked).toNat, pwrMarked := s.pwrMarked || lowered }

/-- A 1 ms interval ends: PWRMEAS takes the power averaged over it, which the spec leaves open within the module limit (R14, R274,
log 3). -/
def State.millisecond (s : State) : State :=
  if s.managed then
    { s with
      pwrMarked := false, pwrmeas := BitVec.ofNat 12 (min (Config.powerMeasured s.free).toNat s.modpwr), free := s.free + 1 }
  else s

/-- PWRLIM_WRITE (R45): the page of a core that is absent returns Unsupported Request (R270). -/
def execPwrlimWrite (core : Nat) (limit : BitVec 16) (s : State) : Out :=
  .next (if s.managed && s.diePresent (dieOf core) then s.setLimits [(core, limit)] else s)

/-- The module limit that a write of MODPWR puts in force (R274). -/
def modLimit (v : Word) : Nat := max 600 (min 2200 (v.toNat % 4096))

/-- The limits that the management core chooses for a module limit: the spec gives no table (log 3). -/
def State.limitsFor (s : State) (watts : Nat) : List (Nat × BitVec 16) :=
  s.presentCores.map (fun c => (c, Config.powerToLimit watts c))

/-- MODPWR_WRITE: the limit in force, and PWRLIM on every core once the firmware runs (R271, R273, R274). After a failed signature check the
register is not there (R271), and in D3cold nothing is (R273). -/
def execModpwrWrite (v : Word) (s : State) : Out :=
  let t := { s with modpwr := modLimit v }
  .next (if s.bootFailed.isSome || s.power = .d3cold then s else if s.managed then t.setLimits (t.limitsFor (modLimit v)) else t)

/-! ### The management page (R274) -/

/-- PFSTAT: the last bring-up step completed, and a failed signature check with its block. -/
def State.pfstat (s : State) : Word :=
  BitVec.ofNat 64 (s.booted + (match s.bootFailed with
    | some b => 256 + 4096 * b
    | none => 0))

/-- PWRCAP: a limit below 0xFFFF, and the intervals in which one was lowered. -/
def State.pwrcap (s : State) : Word :=
  BitVec.ofNat 64 ((s.cores.any (fun k => k.2.pwrlim.toNat < 0xFFFF)).toNat + s.pwrLowered % 2 ^ 32 * 65536)

/-- A read of the management page; after a failed signature check only PFSTAT is there (R271). -/
def State.pfRead (s : State) (off : Nat) : Word :=
  if s.bootFailed.isSome && off != 0x000 then 0
  else
  match off with
  | 0x000 => s.pfstat
  | 0x008 => BitVec.ofNat 64 s.modpwr
  | 0x010 => s.pwrmeas.setWidth 64
  | 0x018 => s.pwrcap
  | _ => 0

/-! ### Resets and power states (R272, R273) -/

/-- A reset of the package: all its state is lost, but for FEAT, which stands until power is removed (R15); what stands outside the package
stays, and the per-boot keys of the next boot are new (R272). -/
def State.powerOff (s : State) : State :=
  let bare := { State.reset with free := s.free, serial := s.serial, focus := s.focus, agenda := s.agenda, wall := s.wall }
  let outside := { bare with localPool := s.localPool, host := s.host, peer := s.peer, peerSens := s.peerSens }
  { outside with feat := s.feat, featFixed := s.featFixed, image := s.image, boots := s.boots }

/-- FUNDAMENTAL_RESET (R272); with its power removed the package has nothing to reset (R273). -/
def execFundamentalReset (s : State) : Out := .next (if s.power = .d3cold then s else s.powerOff)

/-- POWER_STATE_WRITE: D3hot only where every partition is free; D3cold is power removal, after which only a bring-up acts (R271, R273). -/
def execPowerStateWrite (p : PowerState) (s : State) : Out :=
  if s.power = .d3cold then .next s
  else
  match p with
  | .d0 => .next { s with power := .d0 }
  | .d3hot => if s.parts.all (fun d => d.2.state = .free) then .next { s with power := .d3hot } else .next s
  | .d3cold => .next { s.powerOff with power := .d3cold, featFixed := false }

/-! ### Bring-up (R271) -/

/-- A FEAT value that a variant may take (R15, R16). -/
def featOk (f : Word) : Bool :=
  let n := f.toNat
  let dies := n % 16
  (dies = 15 || dies = 7 || dies = 3) && bitsOf n 13 3 = 0 && bitsOf n 24 8 = 0 && bitsOf n 48 16 = 0 && bitsOf n 40 8 = 1 &&
  [0, 1, 2, 3].all (fun d => bitsOf n (16 + 2 * d) 2 = if bitsOf n d 1 = 1 then 3 else 0)

/-- What the root of trust measures in a block (R245, R271): in block 2 the firmware that the management core would start from, and whether
its signatures verify; in block 3 the fuse and FEAT state. -/
def State.measureBlock (s : State) (verified : Bool) (b : Nat) : BitVec 384 :=
  let what := if b = 2 then 2 * s.image + verified.toNat else if b = 3 then s.feat.toNat else 0
  BitVec.ofNat 384 (leNat ((List.range 48).map (fun i => Config.measurementByte b what i)))

/-- BRING_UP: after power-on the fuses fix FEAT; a firmware whose signatures fail stops the bring-up after step 1 with block 2;
otherwise every step completes, the per-boot keys are new, every line reads as zero and PWRLIM stands for the module limit (R271). Where
power was not removed FEAT stands as it is (R15). -/
def execBringUp (feat : Word) (verified : Bool) (s : State) : Out :=
  if s.booted != 0 || s.bootFailed.isSome || !featOk feat || (s.featFixed && feat != s.feat) then .next s
  else
    let s := { s with feat, featFixed := true, power := .d0 }
    if !verified then
      .next { s with booted := 1, bootFailed := some 2, measurements := [1, 2].map (fun b => (b, s.measureBlock verified b)) }
    else
      let s := { s with
        booted := 5, boots := s.boots + 1, measurements := [1, 2, 3, 4].map (fun b => (b, s.measureBlock verified b))
        hbm := [], lineKeys := [], treeMinor := [], treeMajor := [], treeSpent := [], treeFresh := [], badLines := [], badBlocks := [] }
      .next (s.setLimits (s.limitsFor s.modpwr))

/-! ### The die ring (R252, R253) -/

/-- The partition whose transfer a ring stop sends in the present slot, of those with a transfer ready there: the owner of a table entry
with V = 1, else the next in a circle after the one that shared capacity served last at the stop; and whether shared capacity served it. -/
def Die.ringPick (d : Die) (stop : Nat) (wanting : List Nat) : Option (Nat × Bool) :=
  let e := (d.ring.get 0 (d.ringPos % 256)).toNat
  if bitsOf e 7 1 = 1 && wanting.contains (bitsOf e 0 6) then some (bitsOf e 0 6, false)
  else
    let ps := distinct wanting
    ((ps.find? (fun p => d.ringLast.get 63 stop < p)).orElse (fun _ => ps.head?)).map (fun p => (p, true))

/-- One slot of a die's ring (R252; its start at slot 0 is DESIGN CHOICE, log 84): every stop sends at most one transfer, and the ring steps to the next of its 256 slots. `wanting` lists the
stops with the partitions that have a transfer ready there. -/
def Die.ringStep (d : Die) (wanting : List (Nat × List Nat)) : Die :=
  let picks := wanting.filterMap (fun w => (d.ringPick w.1 w.2).map (fun p => (w.1, p)))
  { d with
    ringPos := (d.ringPos + 1) % 256
    ringSent := picks.foldl (fun (m : SMap Nat) p => m.set p.1 p.2.1) []
    ringLast := picks.foldl (fun (m : SMap Nat) p => if p.2.2 then m.set p.1 p.2.1 else m) d.ringLast }

/-- The ring of a die that is present steps (R12, R16). -/
def State.ringStep (s : State) (die : Nat) (wanting : List (Nat × List Nat)) : State :=
  if s.diePresent die then s.modDie die (fun d => d.ringStep wanting) else s

/-! ### Bandwidth bands and throttles (R254, R255) -/

/-- A partition's band at a slice; the defaults of R254. -/
def Slice.band (j : Slice) (p : Nat) : Band := j.bands.get ⟨0, 1024, 1⟩ p

/-- The most a partition takes in a window. -/
def Slice.most (j : Slice) (p d : Nat) : Nat := min d (j.band p).ceiling

/-- One turn of the deficit round robin over the partitions in ascending order: each takes up to its weight. That a window's first turn
begins with the lowest number and no deficit is DESIGN CHOICE, log 85. -/
def drrTurn (j : Slice) : List (Nat × Nat × Nat) → Nat → List (Nat × Nat × Nat) × Nat
  | [], left => ([], left)
  | (p, d, g) :: rest, left =>
    let take := min left (min (j.band p).weight (j.most p d - g))
    let (more, left') := drrTurn j rest (left - take)
    ((p, d, g + take) :: more, left')

/-- Turns until the window is full or nobody may take more. -/
def drr (j : Slice) : Nat → List (Nat × Nat × Nat) → Nat → List (Nat × Nat × Nat)
  | 0, xs, _ => xs
  | n + 1, xs, left =>
    let (ys, left') := drrTurn j xs left
    if left' = left then ys else drr j n ys left'

/-- The grants of a window of 1,024 line transfers: floors first, then the weighted sharing up to the ceilings (R254). -/
def windowGrants (j : Slice) (demand : List (Nat × Nat)) : SMap (Nat × Nat) :=
  let xs := demand.map (fun e => (e.1, e.2, min e.2 (j.band e.1).floor))
  let used := xs.foldl (fun n x => n + x.2.2) 0
  (drr j 1025 xs (1024 - used)).map (fun x => (x.1, min x.2.1 (j.band x.1).floor, x.2.2 - min x.2.1 (j.band x.1).floor))

/-- Lost slots charged to a partition: its floor first, then its weighted share (R255). -/
def Slice.charge (j : Slice) (p n : Nat) : Slice :=
  let g := j.grants.get (0, 0) p
  let c := j.charged.get (0, 0) p
  let low := min n (g.1 - c.1)
  { j with charged := j.charged.set p (c.1 + low, c.2 + (n - low)) }

/-- The transfers of a partition's grant that throttles have not used up: of its floor and of its weighted share (R255). -/
def Slice.useful (j : Slice) (p : Nat) : Nat × Nat :=
  let g := j.grants.get (0, 0) p
  let c := j.charged.get (0, 0) p
  (g.1 - c.1, g.2 - c.2)

/-- BANDWIDTH_WINDOW: a slice that is present arbitrates a window; the throttle charges of the one before are over (R12, R16, R254, R255). -/
def execBandwidthWindow (slice : Nat) (demand : List (Nat × Nat)) (s : State) : Out :=
  let d := demand.foldl (fun (m : SMap Nat) e => if e.1 < 64 then m.set e.1 e.2 else m) []
  .next (if !s.diePresent (sliceDie slice) then s else s.modSlice slice (fun j => { j with grants := windowGrants j d, charged := [] }))

/-- ROW_THROTTLE: the slots that a tracked row loses count as granted, in this window, to the partition of the interface that last activated
it, and the host's physical function is told (R255). A row that no access has activated is not tracked. -/
def execRowThrottle (slice row slots : Nat) (s : State) : Out :=
  match (s.slice slice).tracked.find? row with
  | none => .next s
  | some iface =>
    .next { s.modSlice slice (fun j => j.charge (s.iface iface).part.toNat slots) with
      log := s.log ++ ([.throttle slice iface slots] : List LogEntry) }

end Sys2Proof.Machine
end

