-- ==== Sys2Proof/Machine/Dispatch.lean ====
section
/-! DEFINITION. The meaning of every instruction and event: one direct call per constructor. -/

namespace Sys2Proof.Machine

/-- Execute one instruction or event of the table. -/
def exec (i : Instr) (s : State) : Host.Outcome State Fault Refusal :=
  match i with
  | .add gd d a b => Sys2Proof.Machine.execAdd gd d a b s
  | .and gd d a b => Sys2Proof.Machine.execAnd gd d a b s
  | .andn gd d a b => Sys2Proof.Machine.execAndn gd d a b s
  | .clz gd d a => Sys2Proof.Machine.execClz gd d a s
  | .addi gd d a imm x => Sys2Proof.Machine.execAddi gd d a imm x s
  | .andi gd d a imm x => Sys2Proof.Machine.execAndi gd d a imm x s
  | .ori gd d a imm x => Sys2Proof.Machine.execOri gd d a imm x s
  | .amo gd r a f c o z => Sys2Proof.Machine.execAmo gd r a f c o z s
  | .cas gd r a q c o z => Sys2Proof.Machine.execCas gd r a q c o z s
  | .casl gd r a q k c o z => Sys2Proof.Machine.execCasl gd r a q k c o z s
  | .bkpt gd k x => Sys2Proof.Machine.execBkpt gd k x s
  | .bra gd o => Sys2Proof.Machine.execBra gd o s
  | .call gd o => Sys2Proof.Machine.execCall gd o s
  | .cadv gd r a c o => Sys2Proof.Machine.execCadv gd r a c o s
  | .cread gd r a c o => Sys2Proof.Machine.execCread gd r a c o s
  | .cwait gd r a c o => Sys2Proof.Machine.execCwait gd r a c o s
  | .cget gd c g => Sys2Proof.Machine.execCget gd c g s
  | .cset gd c g x => Sys2Proof.Machine.execCset gd c g x s
  | .ckpt gd a c => Sys2Proof.Machine.execCkpt gd a c s
  | .cmp gd d a b c z => Sys2Proof.Machine.execCmp gd d a b c z s
  | .cmpi gd d a imm c z => Sys2Proof.Machine.execCmpi gd d a imm c z s
  | .coll gd a b c t o => Sys2Proof.Machine.execColl gd a b c t o s
  | .cpy gd a b c x h => Sys2Proof.Machine.execCpy gd a b c x h s
  | .cpyg gd a b c x h => Sys2Proof.Machine.execCpyg gd a b c x h s
  | .cpyx gd a b c x h => Sys2Proof.Machine.execCpyx gd a b c x h s
  | .decl gd g => Sys2Proof.Machine.execDecl gd g s
  | .div gd d a b u => Sys2Proof.Machine.execDiv gd d a b u s
  | .rem gd d a b u => Sys2Proof.Machine.execRem gd d a b u s
  | .max gd d a b u => Sys2Proof.Machine.execMax gd d a b u s
  | .min gd d a b u => Sys2Proof.Machine.execMin gd d a b u s
  | .mul gd d a b => Sys2Proof.Machine.execMul gd d a b s
  | .mulh gd d a b u => Sys2Proof.Machine.execMulh gd d a b u s
  | .or gd d a b => Sys2Proof.Machine.execOr gd d a b s
  | .popc gd d a => Sys2Proof.Machine.execPopc gd d a s
  | .xor gd d a b => Sys2Proof.Machine.execXor gd d a b s
  | .sub gd d a b => Sys2Proof.Machine.execSub gd d a b s
  | .shl gd d a b => Sys2Proof.Machine.execShl gd d a b s
  | .shr gd d a b => Sys2Proof.Machine.execShr gd d a b s
  | .shra gd d a b => Sys2Proof.Machine.execShra gd d a b s
  | .sel gd d a b q => Sys2Proof.Machine.execSel gd d a b q s
  | .shli gd d a h x => Sys2Proof.Machine.execShli gd d a h x s
  | .shri gd d a r h x => Sys2Proof.Machine.execShri gd d a r h x s
  | .endTask gd => Sys2Proof.Machine.execEndTask gd s
  | .fence gd c o => Sys2Proof.Machine.execFence gd c o s
  | .jr gd a => Sys2Proof.Machine.execJr gd a s
  | .ret gd => Sys2Proof.Machine.execRet gd s
  | .krot gd a b c => Sys2Proof.Machine.execKrot gd a b c s
  | .ld gd r b c z o => Sys2Proof.Machine.execLd gd r b c z o s
  | .st gd r b c z o => Sys2Proof.Machine.execSt gd r b c z o s
  | .li gd d imm x => Sys2Proof.Machine.execLi gd d imm x s
  | .lih gd d imm x => Sys2Proof.Machine.execLih gd d imm x s
  | .limm l => Sys2Proof.Machine.execLimm l s
  | .loop gd d imm x => Sys2Proof.Machine.execLoop gd d imm x s
  | .mcfg gd a => Sys2Proof.Machine.execMcfg gd a s
  | .mscl gd a => Sys2Proof.Machine.execMscl gd a s
  | .mms gd a b c m => Sys2Proof.Machine.execMms gd a b c m s
  | .mdrn gd a b c => Sys2Proof.Machine.execMdrn gd a b c s
  | .wld gd a => Sys2Proof.Machine.execWld gd a s
  | .nop gd => Sys2Proof.Machine.execNop gd s
  | .plog gd d a b c => Sys2Proof.Machine.execPlog gd d a b c s
  | .probe gd a b c q => Sys2Proof.Machine.execProbe gd a b c q s
  | .red gd r a f c o z => Sys2Proof.Machine.execRed gd r a f c o z s
  | .rstr gd g => Sys2Proof.Machine.execRstr gd g s
  | .scrub gd a b c => Sys2Proof.Machine.execScrub gd a b c s
  | .sealOpen gd a c => Sys2Proof.Machine.execSealOpen gd a c s
  | .absorb gd a b c h => Sys2Proof.Machine.execAbsorb gd a b c h s
  | .sealClose gd => Sys2Proof.Machine.execSealClose gd s
  | .sfcfg gd a => Sys2Proof.Machine.execSfcfg gd a s
  | .sfx gd a b c f => Sys2Proof.Machine.execSfx gd a b c f s
  | .spawn gd a b => Sys2Proof.Machine.execSpawn gd a b s
  | .trap gd a k x => Sys2Proof.Machine.execTrap gd a k x s
  | .tretn gd => Sys2Proof.Machine.execTretn gd s
  | .waitn gd a b c d e => Sys2Proof.Machine.execWaitn gd a b c d e s
  | .vabs gd t d a z => Sys2Proof.Machine.execVabs gd t d a z s
  | .vadd gd t d a b z => Sys2Proof.Machine.execVadd gd t d a b z s
  | .vand gd t d a b z => Sys2Proof.Machine.execVand gd t d a b z s
  | .vbcast gd t d a z => Sys2Proof.Machine.execVbcast gd t d a z s
  | .vext gd t d a b => Sys2Proof.Machine.execVext gd t d a b s
  | .vcast gd t d a => Sys2Proof.Machine.execVcast gd t d a s
  | .vcvt gd t d a e z => Sys2Proof.Machine.execVcvt gd t d a e z s
  | .vcbx gd d a h q z => Sys2Proof.Machine.execVcbx gd d a h q z s
  | .vclamp gd t d a b z => Sys2Proof.Machine.execVclamp gd t d a b z s
  | .vcmp gd t m a b z => Sys2Proof.Machine.execVcmp gd t m a b z s
  | .vfcmp gd t m a b z => Sys2Proof.Machine.execVfcmp gd t m a b z s
  | .vdot gd d a b z => Sys2Proof.Machine.execVdot gd d a b z s
  | .vfdot gd d a b z => Sys2Proof.Machine.execVfdot gd d a b z s
  | .vfadd gd t d a b z => Sys2Proof.Machine.execVfadd gd t d a b z s
  | .vfsub gd t d a b z => Sys2Proof.Machine.execVfsub gd t d a b z s
  | .vfmul gd t d a b z => Sys2Proof.Machine.execVfmul gd t d a b z s
  | .vfma gd t d a b z => Sys2Proof.Machine.execVfma gd t d a b z s
  | .vfmin gd t d a b z => Sys2Proof.Machine.execVfmin gd t d a b z s
  | .vfmax gd t d a b z => Sys2Proof.Machine.execVfmax gd t d a b z s
  | .vgth gd r b c t => Sys2Proof.Machine.execVgth gd r b c t s
  | .vlds gd r b c t => Sys2Proof.Machine.execVlds gd r b c t s
  | .vsct gd r b c t => Sys2Proof.Machine.execVsct gd r b c t s
  | .vins gd t d a b => Sys2Proof.Machine.execVins gd t d a b s
  | .vld gd r b c t q o => Sys2Proof.Machine.execVld gd r b c t q o s
  | .vst gd r b c t q o => Sys2Proof.Machine.execVst gd r b c t q o s
  | .vmad gd t d a b z => Sys2Proof.Machine.execVmad gd t d a b z s
  | .vmul gd t d a b z => Sys2Proof.Machine.execVmul gd t d a b z s
  | .vmulh gd t d a b z => Sys2Proof.Machine.execVmulh gd t d a b z s
  | .vmax gd t d a b z => Sys2Proof.Machine.execVmax gd t d a b z s
  | .vmin gd t d a b z => Sys2Proof.Machine.execVmin gd t d a b z s
  | .vor gd t d a b z => Sys2Proof.Machine.execVor gd t d a b z s
  | .vxor gd t d a b z => Sys2Proof.Machine.execVxor gd t d a b z s
  | .vshl gd t d a b z => Sys2Proof.Machine.execVshl gd t d a b z s
  | .vshr gd t d a b z => Sys2Proof.Machine.execVshr gd t d a b z s
  | .vrshr gd t d a b z => Sys2Proof.Machine.execVrshr gd t d a b z s
  | .vsub gd t d a b z => Sys2Proof.Machine.execVsub gd t d a b z s
  | .vperm gd t d a b z => Sys2Proof.Machine.execVperm gd t d a b z s
  | .vslide gd t d a b z => Sys2Proof.Machine.execVslide gd t d a b z s
  | .vpk5 gd d a k => Sys2Proof.Machine.execVpk5 gd d a k s
  | .vupk5 gd d a k => Sys2Proof.Machine.execVupk5 gd d a k s
  | .vred gd t d a b z => Sys2Proof.Machine.execVred gd t d a b z s
  | .vscan gd t d a z => Sys2Proof.Machine.execVscan gd t d a z s
  | .vsel gd m d a b => Sys2Proof.Machine.execVsel gd m d a b s
  | .latch1Write v => Sys2Proof.Machine.execLatch1Write v s
  | .latch2Write v => Sys2Proof.Machine.execLatch2Write v s
  | .kslotWrite v => Sys2Proof.Machine.execKslotWrite v s
  | .resultLands core ctx => Sys2Proof.Machine.execResultLands core ctx s
  | .glReturn core ctx n => Sys2Proof.Machine.execGlReturn core ctx n s
  | .nullifiedBundle core => Sys2Proof.Machine.execNullifiedBundle core s
  | .contextSwitch core => Sys2Proof.Machine.execContextSwitch core s
  | .limiterFreeze core => Sys2Proof.Machine.execLimiterFreeze core s
  | .bankConflictFreeze core => Sys2Proof.Machine.execBankConflictFreeze core s
  | .instructionFetch core => Sys2Proof.Machine.execInstructionFetch core s
  | .terminationRetire core ctx => Sys2Proof.Machine.execTerminationRetire core ctx s
  | .taskRetire core ctx => Sys2Proof.Machine.execTaskRetire core ctx s
  | .storePerformed pub n => Sys2Proof.Machine.execStorePerformed pub n s
  | .publicationComplete pub => Sys2Proof.Machine.execPublicationComplete pub s
  | .counterAdvance n => Sys2Proof.Machine.execCounterAdvance n s
  | .waiterWake die => Sys2Proof.Machine.execWaiterWake die s
  | .atomicPerformed core ctx n => Sys2Proof.Machine.execAtomicPerformed core ctx n s
  | .caslPerformed core ctx n => Sys2Proof.Machine.execCaslPerformed core ctx n s
  | .redPerformed core ctx n => Sys2Proof.Machine.execRedPerformed core ctx n s
  | .wellheadHandoff slice => Sys2Proof.Machine.execWellheadHandoff slice s
  | .launchAccept die n => Sys2Proof.Machine.execLaunchAccept die n s
  | .launchHandover die => Sys2Proof.Machine.execLaunchHandover die s
  | .taskSelect core ctx => Sys2Proof.Machine.execTaskSelect core ctx s
  | .taskAgeing die => Sys2Proof.Machine.execTaskAgeing die s
  | .hostLaunch iface => Sys2Proof.Machine.execHostLaunch iface s
  | .staging die n => Sys2Proof.Machine.execStaging die n s
  | .nestWalk die n => Sys2Proof.Machine.execNestWalk die n s
  | .nestRetire die n => Sys2Proof.Machine.execNestRetire die n s
  | .shutterComplete core => Sys2Proof.Machine.execShutterComplete core s
  | .passRow core => Sys2Proof.Machine.execPassRow core s
  | .skipPass core => Sys2Proof.Machine.execSkipPass core s
  | .drainRow core => Sys2Proof.Machine.execDrainRow core s
  | .copyComplete core ch => Sys2Proof.Machine.execCopyComplete core ch s
  | .sweepComplete core => Sys2Proof.Machine.execSweepComplete core s
  | .collComplete n => Sys2Proof.Machine.execCollComplete n s
  | .probeFill n => Sys2Proof.Machine.execProbeFill n s
  | .absorbComplete core ch => Sys2Proof.Machine.execAbsorbComplete core ch s
  | .sealRecordWrite core ctx => Sys2Proof.Machine.execSealRecordWrite core ctx s
  | .keyInstall slot => Sys2Proof.Machine.execKeyInstall slot s
  | .reencryptionSweep slot => Sys2Proof.Machine.execReencryptionSweep slot s
  | .scrubComplete core ctx => Sys2Proof.Machine.execScrubComplete core ctx s
  | .ckptComplete core ctx => Sys2Proof.Machine.execCkptComplete core ctx s
  | .rstrComplete core ctx => Sys2Proof.Machine.execRstrComplete core ctx s
  | .correctableError unit addr => Sys2Proof.Machine.execCorrectableError unit addr s
  | .atsCompletion die n reply => Sys2Proof.Machine.execAtsCompletion die n reply s
  | .prgResponse die n ok => Sys2Proof.Machine.execPrgResponse die n ok s
  | .atsTimeout die n => Sys2Proof.Machine.execAtsTimeout die n s
  | .atsInvalidate part va logSize => Sys2Proof.Machine.execAtsInvalidate part va logSize s
  | .invalidationCompletion n => Sys2Proof.Machine.execInvalidationCompletion n s
  | .timeSliceEnd group => Sys2Proof.Machine.execTimeSliceEnd group s
  | .partitionResume group => Sys2Proof.Machine.execPartitionResume group s
  | .eventDelivery iface vector stamp => Sys2Proof.Machine.execEventDelivery iface vector stamp s
  | .doorbell iface tail => Sys2Proof.Machine.execDoorbell iface tail s
  | .lockedRegisterWrite iface reg v => Sys2Proof.Machine.execLockedRegisterWrite iface reg v s
  | .registerWrite iface acc => Sys2Proof.Machine.execRegisterWrite iface acc s
  | .startInterface iface => Sys2Proof.Machine.execStartInterface iface s
  | .stopInterface iface => Sys2Proof.Machine.execStopInterface iface s
  | .interfaceReset iface => Sys2Proof.Machine.execInterfaceReset iface s
  | .ideStreamInsecure iface => Sys2Proof.Machine.execIdeStreamInsecure iface s
  | .modpwrWrite v => Sys2Proof.Machine.execModpwrWrite v s
  | .pwrlimWrite core limit => Sys2Proof.Machine.execPwrlimWrite core limit s
  | .powerStateWrite p => Sys2Proof.Machine.execPowerStateWrite p s
  | .fundamentalReset => Sys2Proof.Machine.execFundamentalReset s
  | .bringUp feat verified => Sys2Proof.Machine.execBringUp feat verified s
  | .watchdogReset => Sys2Proof.Machine.execWatchdogReset s
  | .cxlMemRead dpa len => Sys2Proof.Machine.execCxlMemRead dpa len s
  | .cxlMemWrite dpa bytes => Sys2Proof.Machine.execCxlMemWrite dpa bytes s
  | .spdmRequest block => Sys2Proof.Machine.execSpdmRequest block s
  | .peerKeyAgreement pkg txSlot rxSlot trusted => Sys2Proof.Machine.execPeerKeyAgreement pkg txSlot rxSlot trusted s
  | .flitTagFailure link => Sys2Proof.Machine.execFlitTagFailure link s
  | .ualinkPortDown port => Sys2Proof.Machine.execUalinkPortDown port s
  | .flowDelivery flow n => Sys2Proof.Machine.execFlowDelivery flow n s
  | .layoutChange ch => Sys2Proof.Machine.execLayoutChange ch s
  | .partitionStop part => Sys2Proof.Machine.execPartitionStop part s
  | .granuleEntryWrite granule w => Sys2Proof.Machine.execGranuleEntryWrite granule w s
  | .keySlotWrite slot w => Sys2Proof.Machine.execKeySlotWrite slot w s
  | .flowTableWrite part pkg w => Sys2Proof.Machine.execFlowTableWrite part pkg w s
  | .bandwidthWindow slice demand => Sys2Proof.Machine.execBandwidthWindow slice demand s
  | .rowThrottle slice row slots => Sys2Proof.Machine.execRowThrottle slice row slots s
  | .counterSample => Sys2Proof.Machine.execCounterSample s
  | .illegalEncoding w l => Sys2Proof.Machine.execIllegalEncoding w l s
  | .lockInterface iface => Sys2Proof.Machine.execLockInterface iface s
  | .ideKm keys => Sys2Proof.Machine.execIdeKm keys s
  | .migrationDeschedule iface => Sys2Proof.Machine.execMigrationDeschedule iface s
  | .interfaceResume iface => Sys2Proof.Machine.execInterfaceResume iface s

end Sys2Proof.Machine
end

