-- ==== Sys2Proof/Machine/Issue.lean ====
section
/-! DEFINITION. Issuing a bundle: its syllables are executed on the state before the bundle, and the bundle issues whole, blocks,
traps or is nullified; and one cycle of a core (R19 to R40, R156, R198 to R203, R319). -/

namespace Sys2Proof.Machine

/-! ### Preparing a bundle -/

/-- When a syllable of a bundle is executed. A WAITN reads the counts as they stand before its bundle (0; R24, R37); a CWAIT or FENCE with
acq begins the phase of the bundle's reads (1; R116; DEDUCED, log 26); whatever writes memory or a counter comes last (3 and 4), since the reads of its bundle, a
CREAD among them, return what stood there before (R24, R280, R291, R327). No store is an earlier one for a release or an atomic of its own
bundle, in whatever order they stand (R112, R126, R280). -/
def issueRank (i : Instr) : Nat :=
  match i with
  | .waitn .. => 0
  | .fence _ _ order => if order.getLsbD 0 then 1 else 2
  | .cwait .. => 1
  | .cadv .. | .red .. | .amo .. | .cas .. | .casl .. | .probe .. => 3
  | .vsct .. | .vst .. | .st .. => 4
  | _ => 2

/-- The slots to execute, in the order of their ranks. -/
def issueOrder (slots : List Slot) : List Slot :=
  let alone := slots.filter (slotAlone slots)
  (List.range 5).flatMap (fun n => alone.filter (fun sl => issueRank sl.instr = n))

/-- The bundle opens a forwarding window with its own MMS (R156); in a trap handler v31 is an ordinary register (R201). -/
def opensWindow (c : Ctx) (slots : List Slot) : Bool :=
  !c.priv && slots.any (fun sl => slotAlone slots sl && (match sl.instr with
    | .mms gd _ _ _ m => c.guardTrue gd && m.getLsbD 3
    | _ => false))

/-- The record of the bundle being issued. -/
def State.openIssue (s : State) (w : Who) (slots : List Slot) : State :=
  let c := s.ctx w
  let x := if (cpyxOf slots).isSome then slots.find? (fun sl => slotClass (fld sl.word 20 7) = .x) else none
  { s with issue := { Issue.reset with
      core := w.core, ctx := w.ctx, first := s.serial, base := c.pc, count := slots.length
      chain := x.map Slot.instr, chainWord := (x.map Slot.word).getD 0, chainIdx := (x.map Slot.idx).getD 0
      opensWindow := opensWindow c slots } }

/-- Point the record at one syllable. -/
def State.atSlot (s : State) (sl : Slot) : State :=
  { s with issue := { s.issue with idx := sl.idx, word := sl.word, limm := sl.limm, verdict := .none } }

/-- What executing the slots of a bundle has come to. -/
structure Eval where
  s : State
  trap : Option (Nat × BitVec 8 × Word)
  blocks : List Block
  waits : Bool
  stop : Option Out

/-- Keep the trap of the earliest syllable (R26 item 3). -/
def firstTrap (old : Option (Nat × BitVec 8 × Word)) (new : Nat × BitVec 8 × Word) : Option (Nat × BitVec 8 × Word) :=
  match old with
  | some o => if new.1 < o.1 then some new else some o
  | none => some new

/-- The class in which a syllable counts at its issue (R36), if it does: a bundle that blocks must have room for all of its syllables,
those that would trap among them (R31). -/
def countClass (i : Instr) : Option Cls :=
  let ext (c : BitVec 3) : Bool := c.toNat = 3 || c.toNat = 4
  match i with
  | .ld _ _ _ c _ _ => if ext c then some .gl else none
  | .vld _ _ _ c _ _ _ => if ext c then some .gl else none
  | .vlds .. => some .gl
  | .vgth .. => some .gl
  | .amo .. => some .gl
  | .cas .. => some .gl
  | .casl .. => some .gl
  | .cread .. => some .gl
  | .probe .. => some .gl
  | .st _ _ _ c _ _ => if ext c then some .gs else none
  | .vst _ _ _ c _ _ _ => if ext c then some .gs else none
  | .vsct _ _ _ c _ => if ext c then some .gs else none
  | .red .. => some .gs
  | .cadv .. => some .gs
  | .fence _ _ o => if o.getLsbD 1 then some .gs else none
  | _ => none

/-- A syllable that blocks or traps still takes its place in the counts of its bundle. -/
def State.stillCounts (s : State) (i : Instr) : State :=
  match countClass i with
  | some k => s.modCur (fun c => c.bump k 1)
  | none => s

/-- What a block asks for, with what the syllables before it in the bundle have taken. -/
def Block.inBundle (c0 c : Ctx) : Block → Block
  | .cap k n => .cap k (n + (c.counts.get k - c0.counts.get k))
  | b => b

/-- The stores of a bundle that block for want of lines block for all of their lines. -/
def joinLines (bs : List Block) : List Block :=
  let keys := bs.flatMap (fun b => match b with
    | .lines ks => ks
    | _ => [])
  bs.map (fun b => match b with
    | .lines _ => .lines keys.dedup
    | b => b)

/-- Execute the slots one after another: each reads the registers and memories from before the bundle, since results wait in
the latch file and stores in the record (R24). A syllable that blocks or traps leaves no effect but its place in the counts. -/
def evalSlots (c0 : Ctx) : List Slot → Eval → Eval
  | [], e => e
  | sl :: rest, e =>
    if e.stop.isSome then e
    else
      match exec sl.instr (e.s.atSlot sl) with
      | .next t =>
        (match t.issue.verdict with
        | .none => evalSlots c0 rest { e with s := t }
        | .trapped c v => evalSlots c0 rest { e with s := e.s.stillCounts sl.instr, trap := firstTrap e.trap (t.issue.idx, c, v) }
        | .blocked why =>
          evalSlots c0 rest { e with s := e.s.stillCounts sl.instr, blocks := e.blocks ++ [why.inBundle c0 e.s.cur] }
        | .waits => evalSlots c0 rest { e with waits := true })
      | .fault f => { e with stop := some (.fault f) }
      | .refused r => { e with stop := some (.refused r) }

/-! ### The Transom (R156) -/

/-- The M-slot stores to X and Y of a bundle, but for those of the Transom row itself. -/
def State.plainBufStores (s : State) (slots : List Slot) : List BufStore :=
  let stores := slots.filter (fun sl => match sl.instr with
    | .st .. => true
    | .vst .. => true
    | .vsct .. => true
    | _ => false)
  (evalSlots s.cur stores ⟨s, none, [], false, none⟩).s.issue.bufStores.filter (fun b => !b.transom)

/-- The row that the Transom shows in this cycle of a context, as it is written to Y after the bundle's stores. -/
def State.transomRow (s : State) (w : Who) (slots : List Slot) : Option VReg :=
  let k := s.core w.core
  if (s.ctx w).priv then none
  else
    match k.passes.find? (fun p => p.ctx = w.ctx % 4 && p.fwd && 6 + p.args.sw.toNat ≤ p.age) with
    | none => none
    | some p =>
      match p.rows with
      | [] => none
      | r :: _ =>
        let k := (s.plainBufStores slots).foldl Core.slotStore k
        let addr := 256 * (p.args.y0 + r.row)
        let (bs, _) := updateRow p.args.acc (k.arrayBytes true addr 256) r.sums
        let line := (k.ytags.get LineTag.reset (p.args.y0 + r.row)).sens
        some ⟨BitVec.ofNat 2048 (leNat bs), 5, line.max (r.sens.max .ten)⟩

/-! ### What becomes of the next bundle -/

/-- Where a trap comes from (R62, R199). -/
inductive TrapFrom where
  | bundle | report | start
deriving DecidableEq, Repr

/-- What becomes of a context's next bundle. -/
inductive Attempt where
  | nullify (n : Nat)
  | fetch (n : Nat)
  | block (why : Block) (also : List Block)
  | trap (from' : TrapFrom) (cause : BitVec 8) (syl : BitVec 3) (val : Word)
  | wait
  | issue (s : State) (slots : List Slot) (words : List Nat)
  | stop (o : Out)

/-- A decoded bundle, its guards not all false and final: blocks come before the budget trap and traps (R26, R31, R38). -/
def State.attemptBundle (s : State) (w : Who) (slots : List Slot) (words : List Nat) : Attempt :=
  let c := s.ctx w
  let t := s.openIssue w slots
  let t := { t with issue := { t.issue with overlay := t.transomRow w slots } }
  let e := evalSlots c (issueOrder slots) ⟨t, none, [], false, none⟩
  match e.stop with
  | some o => .stop o
  | none =>
    match joinLines e.blocks with
    | why :: also => .block why also
    | [] =>
      if e.waits then .wait
      else if !c.priv && c.budget = 0 then .trap .bundle 0x13 0 0
      else
        match e.trap with
        | some (i, cause, v) => .trap .bundle cause (BitVec.ofNat 3 i) v
        | none => .issue e.s slots words

/-- The next bundle of a context, from its pending report to its issue (R26, R29, R31, R38, R199, R281, R282, R365). -/
def State.attempt (s : State) (w : Who) : Attempt :=
  let c := s.ctx w
  let late (cause : BitVec 8) (v : Word) : Attempt :=
    if !c.priv && c.budget = 0 then .trap .bundle 0x13 0 0 else .trap .bundle cause 0 v
  match (if c.priv then none else c.startFault), (if c.priv then [] else c.reports) with
  | _, f :: _ => .trap .report f.cause 0 f.val
  | some f, [] => .trap .start f.cause 0 f.val
  | none, [] =>
    if c.pc.toNat % 4 != 0 then late 0x07 c.pc
    else
      match s.fetchBundle w with
      | .block m => .block (.translation [m]) []
      | .trap cause v => late cause v
      | .ok ws =>
        if !s.cacheHit w ws.length then .fetch ws.length
        else
          match decodeBundle ws with
          | .error f => .trap .bundle f.cause f.syl f.val
          | .ok slots => if c.nullifies slots then .nullify ws.length else s.attemptBundle w slots ws

/-! ### Effects of an attempt -/

/-- What blocking for one reason sets going: a CWAIT enters its counter's waiter list (R120), misses are asked for (R216). -/
def State.startBlock (s : State) (w : Who) (why : Block) : State :=
  match why with
  | .cwait k _ v =>
    let s := s.removeWaiters w
    s.addWaiter k (.ctx w k v false)
  | .translation ms => ms.foldl (fun (u : State) m => u.requestAts (.slot w) (dieOf w.core) m) s
  | _ => s

/-- The next bundle of a context holds a SCRUB of state of its core, with a true guard (R242, R348). -/
def State.holdsScrub (s : State) (w : Who) : Bool :=
  let c := s.ctx w
  match s.nextSlots w with
  | some (_, slots) => slots.any (fun sl => slotTrue c sl && (match sl.instr with
    | .scrub _ a _ _ => (c.gv a).toNat % 16 != 0
    | _ => false))
  | none => false

/-- A bundle that blocks (R30): its reasons are kept. -/
def State.applyBlock (s : State) (w : Who) (why : Block) (also : List Block) : State :=
  (why :: also).foldl (fun (u : State) b => u.startBlock w b)
    ((s.modCore w.core Core.bankFresh).modCtx w (fun c => { c with block := some why, also := also, scrubs := s.holdsScrub w }))

/-- A trap is taken instead of the bundle (R198 to R200). -/
def State.applyTrap (s : State) (w : Who) (from' : TrapFrom) (cause : BitVec 8) (syl : BitVec 3) (val : Word) : State :=
  let s := match from' with
    | .report => s.modCtx w (fun c => { c with reports := c.reports.drop 1 })
    | .start => s.modCtx w (fun c => { c with startFault := none })
    | .bundle => s
  let s := if cause = 0x10 then s.forgetDenial (.slot w) (dieOf w.core) (s.ctx w).part else s
  ((s.modCore w.core Core.bankFresh).removeWaiters w).takeTrap w cause syl val

/-- Stores of the bundle to S or global memory that its guards let issue: each leaves GS in its issue cycle (R361). -/
def storeCount (c : Ctx) (slots : List Slot) : Nat :=
  (slots.filter (fun sl => slotTrue c sl && (match sl.instr with
    | .st _ _ _ sp _ _ => sp = 3 || sp = 4
    | .vst _ _ _ sp _ _ _ => sp = 3 || sp = 4
    | .vsct _ _ _ sp _ => sp = 3 || sp = 4
    | _ => false))).length

/-- What a bundle that has issued leaves behind besides its registers: its stores and the next pc (R24, R27, R282, R319). -/
def State.closeBundle (s : State) (w : Who) (c0 : Ctx) (slots : List Slot) : State :=
  let i := s.issue
  let s := s.modCore w.core (fun k => i.bufStores.foldl Core.slotStore { k.bankFresh with last := w.ctx % 4 })
  let s := (s.perfWho w 3 1).perfWho w 4 ((slots.filter (fun sl => match sl.instr with
    | .limm _ => false
    | _ => true)).length)
  let s := if i.target.isSome then s.perfWho w 7 1 else s
  s.modCtx w (fun c =>
    let c := ({ c with stores := c.stores ++ i.memStores, block := none, scrubs := false }).drop .gs (storeCount c0 slots)
    if c0.priv && !c.priv then c
    else if i.ended then { c with ending := if c0.priv then none else some slots.length }
    else
      match i.target with
      | some a => { c with pc := a, bubbles := 2 }
      | none => { c with pc := i.base + 4 * BitVec.ofNat 64 slots.length })

/-- A bundle issues: one active cycle of its context (R20). A TRETN's own cycle belongs to the handler that it ends (R203); an
END in supervisor mode terminates the task, whose latch files and stores are discarded before anything more lands (R204, R319). -/
def State.finishBundle (s : State) (w : Who) (c0 : Ctx) (slots : List Slot) : State :=
  let ended := s.issue.ended
  let s := s.closeBundle w c0 slots
  let s := { s with issue := Issue.reset }
  let back := c0.priv && !(s.ctx w).priv
  let s := if ended && c0.priv then s.terminate w (c0.trapCause.setWidth 8) else s
  if back then s.tickPasses w.core (fun p => p.priv && p.ctx = w.ctx % 4) else s.activeTick w c0.priv

/-! ### A cycle of a core -/

/-- A core cycle that is not frozen as a whole: its weight enters the window; array and Shutter advance. -/
def State.passCycleOf (s : State) (core weight : Nat) (f : State → State) : State :=
  (f (s.weigh core weight)).coreTick core (s.core core)

/-- Perform a cycle of a weight for a context, or a limiter freeze in its place (R40). -/
def State.limitCycle (s : State) (w : Who) (weight : Nat) (f : State → State) : Out :=
  if (s.core w.core).limited weight then .next (s.freezeCycle w) else .next (s.passCycleOf w.core weight f)

/-- A switch to a ready context begins (R32). -/
def State.leaveFor (s : State) (core y : Nat) : Out :=
  let k := s.core core
  if k.limited (k.engineWeight none) then .next (s.freezeCycle ⟨core, y⟩)
  else .next (((s.startSwitch core y).perfWho (s.lastIssued core) 6 1).passCycleOf core (k.engineWeight none) id)

/-- A cycle in which the core issues nothing (R32): what it is counted for is the context from which the core last issued (R40). -/
def State.idleCycle (s : State) (core : Nat) : Out := s.limitCycle (s.lastIssued core) ((s.core core).engineWeight none) id

/-- The served context's bundle has blocked: a stall of the array's owner (R35), a switch, the return to the context from which the core last
issued, which costs nothing, or a cycle in which nothing issues (R32). -/
def State.waitCycle (s : State) (core : Nat) : Out :=
  let w := s.served core
  let k := s.core core
  if k.ownsForwarding w.ctx then s.limitCycle w (k.engineWeight none) id
  else
    match s.pick core with
    | none => s.idleCycle core
    | some y =>
      if y = w.ctx then s.idleCycle core
      else if y = k.last % 4 then .next (s.serve core y)
      else s.leaveFor core y

/-- The served context's next bundle is tried (R19, R30, R198). It issues in a cycle in which every one of its S accesses is accepted
(R96); one whose PROBE must follow an access under way is tried again once that has landed (log 28). -/
def State.bundleCycle (s : State) (core : Nat) : Out :=
  let w := s.served core
  let c := s.ctx w
  let k := s.core core
  match s.attempt w with
  | .stop o => o
  | .nullify n => .next (s.nullify w n)
  | .fetch n => .next (s.fetchCycle w n)
  | .block why also => (s.applyBlock w why also).waitCycle core
  | .trap f cause syl val => s.limitCycle w (k.engineWeight none) (fun s => s.applyTrap w f cause syl val)
  | .wait => s.limitCycle w (k.engineWeight (some w.ctx)) (fun s => s.activeTick w c.priv)
  | .issue t slots words =>
    let banks := s.bundleBanks w slots
    let weight := bundleWeight words + k.engineWeight (some w.ctx)
    if s.bundleHeld w slots then .next s
    else
      match s.tryBanks w banks with
      | .lost u => .next u
      | .taken n =>
        if k.limited weight then .next (s.freezeCycle w)
        else .next ((((t.takeBanks core n banks).finishBundle w c slots).weigh core weight).coreTick core k)

/-- One cycle of a core: a switch cycle, a bubble, the served context's next bundle, or a cycle in which nothing issues
(R19). Where the served context was blocked or is idle, the order after the context from which the core last issued decides, and a change
from that context costs a switch (R32). -/
def State.cycle (s : State) (core : Nat) : Out :=
  let w := s.served core
  let k := s.core core
  match k.switching with
  | some (y, _) =>
    if k.limited (k.engineWeight none) then .next (s.freezeCycle ⟨core, y⟩)
    else .next (s.passCycleOf core (k.engineWeight none) (fun s => s.switchCycle core))
  | none =>
    if (s.ctx w).bubbles != 0 then
      s.limitCycle w (k.engineWeight (some w.ctx)) (fun s =>
        (s.modCtx w (fun c => { c with bubbles := c.bubbles - 1 })).activeTick w (s.ctx w).priv)
    else if k.ownsForwarding w.ctx && !s.ready w then s.waitCycle core
    else if s.ready w && ((s.ctx w).block.isNone || k.ownsForwarding w.ctx) then (s.retry w).bundleCycle core
    else
      match s.pick core with
      | none => s.idleCycle core
      | some y =>
        if y = w.ctx || y = k.last % 4 then ((s.serve core y).retry ⟨core, y⟩).bundleCycle core
        else s.leaveFor core y

end Sys2Proof.Machine
end

