-- ==== Sys2Proof/Machine/Moves.lean ====
section
/-! DEFINITION. One move of one agent (log 1): a core cycle, an event of the table or an act of the world outside; the moves
that follow where none is listed; and how a program is placed for the next step. -/

namespace Sys2Proof.Machine

/-- The events of the table that can come about by themselves: not a syllable, and not the effect of a CSET or of decoding,
which come about inside a bundle. -/
def isMove (i : Instr) : Bool :=
  !i.isSyllable && (match i with
    | .latch1Write _ => false
    | .latch2Write _ => false
    | .kslotWrite _ => false
    | .illegalEncoding _ _ => false
    | _ => true)

/-- A host store to host memory, seen by the device at once (R97, R260). -/
def State.hostStore (s : State) (a : Nat) (bs : List Byte) : State := (s.performAll .host a bs .fabric .outside none).1

/-- A store of another package to a peer's memory, performed at its home and published at fabric scope (R97). Stores to this package come
on flows (R137). -/
def State.peerStore (s : State) (p : Place) (a : Nat) (bs : List Byte) : State :=
  match p with
  | .peer _ => (s.performAll p a bs .fabric .outside none).1
  | _ => s

/-- A line of a buffer or of S space fails (R103); space 3 takes the core as a cluster's first. -/
def State.failBuffer (s : State) (core space line : Nat) : State :=
  match space with
  | 0 => s.modCore core (fun k => { k with xbad := insertNat line k.xbad })
  | 1 => s.modCore core (fun k => { k with ybad := insertNat line k.ybad })
  | 2 => s.modCore core (fun k => { k with wbad := insertNat line k.wbad })
  | _ => s.modCluster (clusterOf core) (fun k => { k with sbad := insertNat line k.sbad })

/-- An event that needs no core, link or memory of the package to run: a host access to registers, an interface's state, power (which of them act
in D3hot is DESIGN CHOICE, log 86). -/
def actsAsleep : Instr → Bool
  | .powerStateWrite _ | .fundamentalReset | .bringUp _ _ | .watchdogReset => true
  | .modpwrWrite _ | .spdmRequest _ | .counterSample | .eventDelivery .. | .doorbell .. => true
  | .registerWrite .. | .lockedRegisterWrite .. => true
  | .interfaceReset _ | .lockInterface _ | .startInterface _ | .stopInterface _ | .ideStreamInsecure _ | .ideKm .. => true
  | _ => false

/-- The served context's next bundle is ready: it would issue, but for its accesses to the S banks (R96). -/
def State.bundleReady (s : State) (core : Nat) : Bool :=
  match s.attempt (s.served core) with
  | .issue _ slots _ => !s.bundleHeld (s.served core) slots
  | _ => false

/-- An event may come about: inside D0 any, in D3hot what needs no clock, and with the power removed the bring-up alone (R271, R273). A
conflict at the banks comes about for a bundle that is ready (R96). -/
def State.mayOccur (s : State) (i : Instr) : Bool :=
  isMove i && (match i with
    | .bankConflictFreeze core => s.bundleReady core
    | _ => true) && (match s.power with
    | .d0 => true
    | .d3hot => actsAsleep i
    | .d3cold => match i with
      | .bringUp _ _ => true
      | _ => false)

/-- One move. The cores' clocks stand outside D0, and so do the engines, the links and the rings; nothing of the package answers in D3cold
(R273). The cores of an absent die have no clock (R16), and on a core that is frozen nothing moves (R210, R211). -/
def State.move (s : State) : Move → Out
  | .cycle core => if s.power = .d0 && s.diePresent (dieOf core) then s.onClock core (fun s => s.cycle core) else .next s
  | .occur e => if s.mayOccur e then exec e s else .next s
  | .hostStore a bs => .next (s.hostStore a bs)
  | .copySome core ch n =>
    if s.power != .d0 then .next s
    else s.onClock core fun s => .next (match (s.core core).chan ch with
      | [] => s
      | _ :: _ =>
        match s.runCopy core ch n with
        | some r => if r.failed.isSome then s else r.s
        | none => s)
  | .hashSome core ch n => if s.power != .d0 then .next s else s.onClock core fun s => .next (s.hashSome core ch n)
  | .sweepSome core n =>
    if s.power != .d0 then .next s
    else s.onClock core fun s => .next (match s.runSweep core n (((s.core core).sweeps.head?.map SweepCmd.rows).getD 0) with
      | some (t, _, none) => t
      | _ => s)
  | .caslReserve core ctx op => .next (if s.power != .d0 then s else s.caslReserve ⟨core, ctx % 4⟩ op)
  | .collSome i n => .next (if s.power != .d0 then s else s.collSome i n)
  | .stageSome die i n => .next (if s.power != .d0 then s else s.stageSome die i n)
  | .lineFails dpa => .next { s with badLines := insertNat (dpa / 64) s.badLines }
  | .flitPasses link => .next <| if s.power != .d0 then s else { s with links := s.links.set link { s.links.get Link.reset link with failures := 0 } }
  | .ringStep die wanting => .next (if s.power != .d0 then s else s.ringStep die wanting)
  | .rowActivate slice row iface =>
    .next (if s.power != .d0 || !s.diePresent (sliceDie slice) || 256 ≤ iface then s else s.modSlice slice (fun j => { j with tracked := j.tracked.set row iface }))
  | .millisecond => .next s.millisecond
  | .pfRead off => .next (if s.power = .d3cold then { s with reply := [] } else s.answer (s.pfRead off))
  | .partReport part => .next (s.partReport part)
  | .blockFails stack level block => .next (s.blockFails stack level block)
  | .openWindow d base len => .next (s.openWindow d base len)
  | .closeWindow d => .next { s with hdm := s.hdm.erase d }
  | .peerPolicy part pkg ok => .next (s.peerPolicy part pkg ok)
  | .bufferFails core space line => .next (s.failBuffer core space line)
  | .peerGranule pkg granule sens =>
    .next { s with peerSens := s.peerSens.set pkg ((s.peerSens.get [] pkg).set granule sens) }
  | .peerStore p a bs => .next (s.peerStore p a bs)
  | .peerArrives pkg flow un seq rel item => .next (if s.power != .d0 then s else s.peerArrives (pkg * 4096 + flow % 4096) un seq rel item)
  | .updateFirmware image => .next { s with image }
  | .peerDelivers pkg flow i => .next (if s.power != .d0 then s else s.peerDelivers (pkg * 4096 + flow % 4096) i)

/-! ### The moves that follow where none is listed (log 1) -/

/-- Events about one context's outstanding operations and its task. -/
def State.contextEvents (s : State) (w : Who) : List Instr :=
  let x := BitVec.ofNat 2 w.ctx
  let n := (s.ctx w).ops.length
  ((List.range n).flatMap (fun i => [Instr.atomicPerformed w.core x i, .caslPerformed w.core x i, .redPerformed w.core x i,
    .glReturn w.core x i])) ++
  [.sealRecordWrite w.core x, .scrubComplete w.core x, .ckptComplete w.core x, .rstrComplete w.core x,
   .terminationRetire w.core x, .taskRetire w.core x, .taskSelect w.core x]

/-- Events about one core's engines. -/
def State.coreEvents (s : State) (core : Nat) : List Instr :=
  ([0, 1, 2, 3].flatMap (fun ch => [Instr.copyComplete core (BitVec.ofNat 2 ch), .absorbComplete core (BitVec.ofNat 2 ch)])) ++
  [.sweepComplete core, .drainRow core] ++ [0, 1, 2, 3].flatMap (fun x => s.contextEvents ⟨core, x⟩)

/-- Events about one die's Pump and Cistern. -/
def State.dieEvents (s : State) (die : Nat) : List Instr :=
  let d := s.die die
  [Instr.waiterWake die, .launchHandover die] ++ (List.range d.inbox.length).map (fun i => .launchAccept die i) ++
  (List.range d.nests.length).flatMap (fun i => [Instr.staging die i, .nestWalk die i, .nestRetire die i]) ++
  (if d.pool.any (fun t => t.ready.isSome) then [.taskAgeing die] else [])

/-- The cores that hold something or belong to a partition. -/
def State.coreNumbers (s : State) : List Nat := unionNat (s.parts.flatMap (fun p => p.2.cores)) (s.cores.map Prod.fst)

/-- The next phase of a layout change that the journal holds (R259). -/
def State.journalEvents (s : State) : List Instr :=
  match s.journal with
  | .idle => []
  | .preparing c _ => [.layoutChange c]
  | .prepared c _ => [.layoutChange c]
  | .committed c _ => [.layoutChange c]

/-- The events that can follow inside the package, in a fixed order. -/
def State.pendingEvents (s : State) : List Instr :=
  (s.pubs.flatMap (fun p => [Instr.storePerformed p.id 0, .publicationComplete p.id])) ++
  (List.range s.advances.length).map (fun i => .counterAdvance i) ++ (List.range s.fills.length).map (fun i => .probeFill i) ++
  (List.range s.colls.length).map (fun i => .collComplete i) ++ s.flows.map (fun f => .flowDelivery f.1 0) ++
  s.coreNumbers.flatMap s.coreEvents ++ s.slices.map (fun j => .wellheadHandoff j.1) ++
  s.dies.flatMap (fun d => s.dieEvents d.1) ++ s.ifaces.map (fun i => .hostLaunch i.1) ++
  (s.cores.flatMap (fun k => (krotSlots k.2.misc).flatMap (fun n => [Instr.keyInstall n, .reencryptionSweep n]))) ++
  (if s.dies.any (fun d => !d.2.invalidations.isEmpty) then [.invalidationCompletion 0] else []) ++
  (if s.frozen.isEmpty then [] else (List.range s.groups.length).map (fun i => .timeSliceEnd i)) ++
  (List.range s.groups.length).map (fun i => .partitionResume i) ++ s.journalEvents

/-- The first event that changes anything. -/
def State.firstEvent (s : State) : List Instr → Option Instr
  | [] => none
  | e :: es =>
    match exec e s with
    | .next t => if t = s then s.firstEvent es else some e
    | _ => some e

/-- The served context's next bundle waits to be fetched over a flow that another agent must empty first. -/
def State.awaitsFlow (s : State) (core : Nat) : Bool :=
  let w := s.served core
  match s.nextSlots w with
  | some (ws, _) => !s.cacheHit w ws.length && s.fetchWaits w ws.length
  | none => false

/-- The served context's next bundle holds a PROBE whose accesses are not accepted before another agent acts. -/
def State.awaitsBank (s : State) (core : Nat) : Bool :=
  let w := s.served core
  (s.pubs.any (fun p => p.who = w) || !(s.ctx w).ops.isEmpty) && (match s.nextSlots w with
    | some (_, slots) => s.bundleHeld w slots
    | none => false)

/-- A core has a bundle, a bubble or a switch to perform that waits for no event. -/
def State.coreBusy (s : State) (core : Nat) : Bool :=
  !s.coreFrozen core && (
  (s.core core).switching.isSome || (s.ctx (s.served core)).bubbles != 0 ||
  ([0, 1, 2, 3].any (fun x => s.ready ⟨core, x⟩) && !(s.ready (s.served core) && (s.awaitsBank core || s.awaitsFlow core))))

/-- The move that follows where the agenda lists none: a cycle of the core in focus while it has something to issue, else of
another core that has, else the first event that changes anything, else a cycle of the core in focus (log 1). -/
def State.defaultMove (s : State) : Move :=
  if s.coreBusy s.focus then .cycle s.focus
  else
    match List.find? (fun (k : Nat × Core) => s.coreBusy k.1) s.cores with
    | some k => .cycle k.1
    | none =>
      match s.firstEvent s.pendingEvents with
      | some e => .occur e
      | none => .cycle s.focus

/-! ### Placing an instruction (log 9) -/

/-- Where withFetchWord places code: a virtual address and the DPA of its granule. -/
def codeVa : Nat := 0x10000
def codeDpa : Nat := 0x10000

/-- The partition of the placed program: it runs and holds core 0. -/
def codePart : PartDesc := { PartDesc.none with state := .running, cores := [0], memKey := 1 }

/-- The task of the placed program, in context 0 of core 0. -/
def codeCtx : Ctx :=
  { Ctx.reset with
    task := some ⟨0, .core, false, 0, 0, none, 0⟩
    pc := BitVec.ofNat 64 codeVa, budget := 1000000, nestId := 0xFFFF }

/-- The words of an instruction, its last with S = 1. -/
def codeWords (nbits w : Nat) : List Nat :=
  if nbits ≤ 32 then [w % 2 ^ 31 + 2 ^ 31] else [w % 2 ^ 31, w / 2 ^ 32 % 2 ^ 31 + 2 ^ 31]

/-- A program loaded from outside: its code in HBM with its granule and its page in die 0's cache, and a task that stands at
it. -/
def State.placeCode (s : State) (words : List Nat) : State :=
  let bytes := words.flatMap (leBytes 4)
  let k := s.core 0
  let s := s.setCore 0 (({ k with last := 0, serving := 0, switching := none, icache := cacheLines 0 codeVa words.length ++ k.icache }).setCtx 0
    { codeCtx with g := (k.ctx 0).g, v := (k.ctx 0).v, p := (k.ctx 0).p, m := (k.ctx 0).m, q := (k.ctx 0).q })
  let s := s.modDie 0 (fun d => { d with dtc := [⟨0, codeVa, 16, .hbm codeDpa, true⟩] })
  { s with
    hbm := s.hbm.putBytes codeDpa bytes
    granules := s.granules.set (codeDpa / 65536) (BitVec.ofNat 64 (1 * 65536 + 4))
    parts := s.parts.set 0 codePart
    power := .d0, focus := 0, agenda := [] }

end Sys2Proof.Machine
end

