-- ==== Sys2Proof/Machine/Step.lean ====
section
/-! DEFINITION. One step of the machine, and a state whose next step runs a given instruction. -/

namespace Sys2Proof.Machine

/-- One step: the first move of the agenda, or where it lists none the move that follows (log 1). -/
def step (s : State) : Host.Outcome State Fault Refusal :=
  match s.agenda with
  | [] => s.move s.defaultMove
  | m :: ms => { s with agenda := ms }.move m

/-- The state with an instruction placed as a bundle of its own where the next step fetches: a program is loaded from outside the
machine (log 9). -/
def State.withFetchWord (s : State) (nbits w : Nat) : State := s.placeCode (codeWords nbits w)

end Sys2Proof.Machine
end

