-- ==== Sys2Proof/Safety.lean ====
section
/-! DEFINITION. The terms that claims about the machine are stated in: the canonical form of every memory, what a syllable
may change, and when the sources of a vector syllable are accepted. -/

namespace Sys2Proof.Machine

/-- Every memory of the package has the canonical form: HBM, host memory, the peers' memories, the X, Y and W buffers of
every core, the S space of every cluster, and the buffers of every core that a pre-emption has saved. -/
def State.MemOk (s : State) : Prop :=
  s.hbm.wf = true ∧ s.host.wf = true ∧ (∀ e ∈ s.peer, Mem.wf e.2 = true) ∧
  (∀ e ∈ s.cores, Mem.wf e.2.x = true ∧ Mem.wf e.2.y = true ∧ Mem.wf e.2.w = true) ∧
  (∀ e ∈ s.clusters, Mem.wf e.2.s = true) ∧
  (∀ e ∈ s.saved, ∀ c ∈ e.2.cores, Mem.wf c.2.x = true ∧ Mem.wf c.2.y = true ∧ Mem.wf c.2.w = true)

/-- A step goes on: it answers a next state, neither a fault nor a refusal. -/
def Answers (o : Out) : Prop := ∃ t, o = .next t

/-- Nothing has changed but the context whose bundle is being issued: no other context, no buffer, no memory, no engine, no
counter, no register of the package. -/
def State.OnlyCur (s t : State) : Prop :=
  { t with cores := s.cores } = s ∧
  (∀ k, { t.core k with ctxs := (s.core k).ctxs } = s.core k) ∧
  (∀ w : Who, ¬(w.core = s.issue.core ∧ w.ctx % 4 = s.issue.ctx % 4) → t.ctx w = s.ctx w)

/-- A syllable runs and changes nothing but its own context, which becomes `c`. -/
def Runs (i : Instr) (s : State) (c : Ctx) : Prop := ∃ t, exec i s = .next t ∧ s.OnlyCur t ∧ t.cur = c

/-- The context with a g result in its latch file, to land l active cycles later; no flag. -/
def Ctx.withG (c : Ctx) (l : Nat) (d : BitVec 5) (v : Word) (sens : Sens) : Ctx := c.push l (.g d) (v.setWidth 2048) 0 sens 0

/-- The context with a predicate result in its latch file. -/
def Ctx.withP (c : Ctx) (l : Nat) (d : BitVec 3) (v : Bool) (sens : Sens) : Ctx :=
  c.push l (.p d) (BitVec.ofNat 2048 v.toNat) 0 sens 0

/-- The five register files of a context, are those of another. -/
def Ctx.SameRegs (c d : Ctx) : Prop :=
  d.g = c.g ∧ d.v = c.v ∧ d.p = c.p ∧ d.m = c.m ∧ d.q = c.q

/-- The trap registers and both privileges of a context are those of another. -/
def Ctx.SameTrap (c d : Ctx) : Prop :=
  d.trapPc = c.trapPc ∧ d.trapCause = c.trapCause ∧ d.trapVal = c.trapVal ∧ d.tvec = c.tvec ∧ (d.priv, d.ppriv) = (c.priv, c.ppriv)

/-- What a context holds of its task is that of another: TASKID, NESTID, BUDGET, KSLOT, HASHKEY and AGE. -/
def Ctx.SameTask (c d : Ctx) : Prop :=
  (d.taskId, d.nestId) = (c.taskId, c.nestId) ∧ d.budget = c.budget ∧ d.kslot = c.kslot ∧ d.hashKey = c.hashKey ∧ d.age = c.age

/-- The control state of a context is that of another: the trap registers, what it holds of its task, FLAGS, FRM, ACYC, FRZ, the counts
and the pc. -/
def Ctx.SameControl (c d : Ctx) : Prop :=
  c.SameTrap d ∧ c.SameTask d ∧ (d.flags, d.frm) = (c.flags, c.frm) ∧ d.acyc = c.acyc ∧ d.frz = c.frz ∧ d.counts = c.counts ∧ d.pc = c.pc

/-- Every byte of every memory and buffer reads as before. -/
def State.SameBytes (s t : State) : Prop :=
  (∀ p a, t.homeByte p a = s.homeByte p a) ∧
  (∀ k a, (t.core k).x.byte a = (s.core k).x.byte a ∧ (t.core k).y.byte a = (s.core k).y.byte a ∧
    (t.core k).w.byte a = (s.core k).w.byte a)

/-- A vector syllable's registers are accepted (R366 items 2 and 3): no misuse of the Transom and every tag check passes. -/
def State.accepts (s : State) (reads writes : List (BitVec 5)) (checks : List (Bool × Word)) : Bool :=
  reads.all (fun r => (s.readV r).isSome) && writes.all (fun r => !s.v31Busy r) && checks.all (fun c => c.1)

/-- The registers an element-wise syllable reads: its sources, and d where the mask merges into it (R366). -/
def laneReads (srcs : List (BitVec 5)) (d : BitVec 5) (z : Bool) : List (BitVec 5) := if z then srcs ++ [d] else srcs

/-- An element-wise syllable of one type is accepted. -/
def State.lanesOk (s : State) (t : Tag) (srcs : List (BitVec 5)) (d : BitVec 5) (z moves : Bool) : Bool :=
  s.accepts (laneReads srcs d z) [d] ((laneReads srcs d z).map (fun r => s.vcheck r t moves))

/-- The lanes of an element-wise result without flags. -/
def lanesOf (t : Tag) (f : Nat → Nat) : List (Nat × BitVec 7) := (List.range (2048 / opBits t)).map (fun i => (f i, 0))

/-- The issuing core is ready for an array command: it owns the array or no other context does (R34). -/
def State.arrayMine (s : State) : Bool := !(s.core s.issue.core).ownedByOther s.issue.ctx

/-- A variable-latency operation of the issuing context goes in flight and counts in a class; no register, flag, pc, latch entry or
byte changes, nor any other context. -/
def State.Issues (s t : State) (k : OpKind) (va : Nat) (sens : Sens) (res : Option OpResult) (cls : Cls) : Prop :=
  (∃ o, t.cur.ops = s.cur.ops ++ [o] ∧ o.kind = k ∧ o.va = va ∧ o.sens = sens ∧ o.result = res ∧ o.phase = s.cur.phase ∧
    o.vis = s.cur.vis ∧ o.dropped = s.cur.landed.filter (fun d => k.dests.contains d)) ∧
  ({ s.cur with counts := s.cur.counts.set cls (s.cur.counts.get cls + 1) }).SameControl t.cur ∧ s.cur.SameRegs t.cur ∧
  t.cur.latch = s.cur.latch ∧ s.SameBytes t ∧
  (∀ w : Who, ¬(w.core = s.issue.core ∧ w.ctx % 4 = s.issue.ctx % 4) → t.ctx w = s.ctx w)

/-- A syllable of the issuing context that releases (`on`) puts every store the context holds under one publication at a scope, of which
it keeps the number; with nothing to publish, or without a release, no publication begins (R112). -/
def State.Releases (s t : State) (on : Bool) (sc : Scope) (pub : Option Nat) : Prop :=
  let quiet : Bool := s.cur.stores.isEmpty && !s.pubs.any (fun p => p.who = s.who)
  (on = false → t.cur.stores = s.cur.stores ∧ t.pubs = s.pubs ∧ pub = none) ∧
  (on = true → quiet = true → t.cur.stores = [] ∧ t.pubs = s.pubs ∧ pub = none) ∧
  (on = true → quiet = false → t.cur.stores = [] ∧ ∃ p : Pub, t.pubs = s.pubs ++ [p] ∧ p.who = s.who ∧ p.scope = sc ∧
    p.stores = s.cur.stores ∧ p.fence = false ∧ pub = some p.id)

/-- The 64-byte lines of pieces of memory: place, address, length. -/
def pieceLines (ps : List (Place × Nat × Nat)) : List (Place × Nat) :=
  ps.flatMap (fun p => (List.range ((p.2.1 + p.2.2 + 63) / 64 - p.2.1 / 64)).map (fun i => (p.1, p.2.1 / 64 + i)))

/-- With more pieces the context would hold at most 192 lines of unpublished stores (R212). -/
def State.linesFit (s : State) (ps : List (Place × Nat × Nat)) : Bool :=
  ((storeLines (s.ownStores s.who) ++ storeLines s.issue.memStores ++ pieceLines ps).dedup).length ≤ 192

/-- The issuing bundle holds stores of the given places, addresses, bytes, tags and sensitivities (R111); no register, flag, pc, latch
entry or byte changes, nor any other context. -/
def State.HoldsStores (s t : State) (xs : List (Place × Nat × List Byte × Tag × Sens)) : Prop :=
  (∃ ts, t.issue.memStores = s.issue.memStores ++ ts ∧ (∀ x ∈ ts, x.phase = s.cur.phase) ∧
    ts.map (fun (x : Store) => (x.place, x.addr, x.bytes, x.fmt, x.sens)) = xs) ∧
  ({ s.cur with counts := s.cur.counts.set .gs (s.cur.counts.gs + 1) }).SameControl t.cur ∧ s.cur.SameRegs t.cur ∧
  t.cur.latch = s.cur.latch ∧ s.SameBytes t ∧
  (∀ w : Who, ¬(w.core = s.issue.core ∧ w.ctx % 4 = s.issue.ctx % 4) → t.ctx w = s.ctx w)

/-- A command is accepted: of the contexts only the issuing one changes, and only in its counts, and no byte of any memory
changes. -/
def State.Accepts (s t : State) (n : Counts) : Prop :=
  t.cur = { s.cur with counts := n } ∧ s.SameBytes t ∧
  (∀ w : Who, ¬(w.core = s.issue.core ∧ w.ctx % 4 = s.issue.ctx % 4) → t.ctx w = s.ctx w)

/-- One more operation of a class (R36). -/
def Counts.more (c : Counts) (k : Cls) : Counts := c.set k (c.get k + 1)
def Counts.less (c : Counts) (k : Cls) : Counts := c.set k (c.get k - 1)

/-- The counter that a command completes on passes its checks (R118, R165): the increment register is PUB, and the handle names a counter
unless the command is NC. -/
def State.completesOn (s : State) (nc : Bool) (h : Word) (incr : BitVec 5) (comp : Option Completion) : Prop :=
  s.gsens incr = .pub ∧
  if nc then comp = none
  else ∃ k, s.checkHandle s.who s.cur.part s.cur.hashKey true h = .ok k ∧ comp = some ⟨k, h, (s.gw incr).toNat⟩

/-- A context in task mode enters its trap handler (R200, R201): its latch file is held aside and an empty one takes its place, TRAPPC is
the bundle's address, TRAPVAL and TRAPCAUSE say why and which syllable, PPRIV takes PRIV, PRIV becomes 1 and the pc goes to TVEC. The
registers, FLAGS, counts, BUDGET, ACYC and FRZ, every byte of memory and every other context are as before. -/
def State.EntersHandler (s t : State) (cause : BitVec 8) (val : Word) : Prop :=
  (t.cur.held.map (fun h => h.map (fun e => (e.dest, e.val, e.fmt, e.sens, e.flags, e.rem, e.live)))) =
    some (s.cur.latch.map (fun e => (e.dest, e.val, e.fmt, e.sens, e.flags, e.rem, e.live))) ∧
  t.cur.latch = [] ∧ t.cur.trapPc = s.cur.pc ∧ t.cur.trapVal = val ∧ t.cur.trapCause = BitVec.ofNat 3 s.issue.idx ++ cause ∧
  t.cur.ppriv = false ∧ t.cur.priv = true ∧ t.cur.pc = s.cur.tvec ∧ s.cur.SameRegs t.cur ∧ t.cur.flags = s.cur.flags ∧
  t.cur.counts = s.cur.counts ∧ t.cur.budget = s.cur.budget ∧ t.cur.acyc = s.cur.acyc ∧ t.cur.frz = s.cur.frz ∧
  t.cur.tvec = s.cur.tvec ∧ t.issue.verdict = .trapped cause val ∧ s.SameBytes t ∧
  (∀ w : Who, ¬(w.core = s.issue.core ∧ w.ctx % 4 = s.issue.ctx % 4) → t.ctx w = s.ctx w)

/-- Nothing is at work in a core's array: no pass, no queued command and no plane being loaded. -/
def Core.arrayIdle (k : Core) : Prop := k.passes = [] ∧ k.queue = [] ∧ k.shutter = none

end Sys2Proof.Machine
end

