-- ==== Sys2Proof/Certificates/Slice0/Obligations.lean ====
section
/-! DEFINITION. The statements about the machine. Each docstring names the rules of the spec that it formalises, or the log entry
where a clause rests on a choice of the model. -/

open Sys2Proof Sys2Proof.Machine

/-! ### Encodings, decoding and the step -/

/-- Words that the reference entries and the worked example of the encoding chapter give, written out, decode to the instructions they
stand for, one or more of every class: ADD and its kin, ADDI and LI without and with a LIMM, LIMM, PLOG, LOOP, BRA, NOP, TRAP, BKPT (S and
B), LD, AMO, CASL, RED, CADV, PROBE (M), VADD, VRSHR, VRED, VSCAN, VPK5, VUPK5 (V), WLD, MCFG, MDRN (X), SFCFG (F), COLL, KROT, ABSORB
(C), CGET, CSET with a LIMM, RSTR, TRETN (Y) (R279, R294, R295, R297, R299, R301, R306, R307, R311, R324, R326, R331, R332, R335,
R337 to R339, R342, R344, R349, R353, R357, R363, R364, R388, R391, R393, R397, R400). -/
def Obligations.ExampleWordsDecode : Prop :=
  decodeTableWord 32 0x800298E0 = some (.add .always 5 6 7) ∧
  decodeTableWord 32 0x804298E0 = some (.xor .always 5 6 7) ∧
  decodeTableWord 32 0x801298E0 = some (.sub .always 5 6 7) ∧
  decodeTableWord 32 0x80F298E2 = some (.sel .always 5 6 7 2) ∧
  decodeTableWord 32 0x812281FF = some (.ori .always 5 0 0x1FF none) ∧
  decodeTableWord 32 0x810297FF = some (.addi .always 5 5 0x3FF none) ∧
  decodeTableWord 64 0x87F00012010297FF = some (.addi .always 5 5 0x3FF (some 0x12)) ∧
  decodeTableWord 32 0x81540005 = some (.li .always 8 5 none) ∧
  decodeTableWord 64 0x87F0000101549C40 = some (.li .always 9 0x1C40 (some 1)) ∧
  decodeTableWord 32 0x87F00001 = some (.limm 1) ∧
  decodeTableWord 32 0x8302F868 = some (.ld .always 5 30 0 3 8) ∧
  decodeTableWord 32 0x8382981C = some (.amo .always 5 6 0 3 2 false) ∧
  decodeTableWord 32 0x83A618DE = some (.casl .always 12 6 1 true 3 3 false) ∧
  decodeTableWord 32 0x83B29A5D = some (.red .always 5 6 9 3 2 true) ∧
  decodeTableWord 32 0x83C4A018 = some (.cadv .always 9 8 3 0) ∧
  decodeTableWord 32 0x84051844 = some (.vadd .always 5 3 1 2 false) ∧
  decodeTableWord 32 0x86050000 = some (.wld .always 10) ∧
  decodeTableWord 32 0x86448000 = some (.mcfg .always 9) ∧
  decodeTableWord 32 0x862A32A0 = some (.mdrn .always 20 12 21) ∧
  decodeTableWord 32 0x86650000 = some (.sfcfg .always 10) ∧
  decodeTableWord 32 0x86A85304 = some (.coll .always 16 20 24 1 0) ∧
  decodeTableWord 32 0x86E85300 = some (.krot .always 16 20 24) ∧
  decodeTableWord 32 0x86C85305 = some (.absorb .always 16 20 24 1) ∧
  decodeTableWord 32 0x87802CA0 = some (.cget .always 0x00B 5) ∧
  decodeTableWord 64 0x87F0000507904400 = some (.cset .always 0x011 0 (some 5)) ∧
  decodeTableWord 32 0x81B61100 = some (.plog .always 3 1 2 0) ∧
  decodeTableWord 32 0x8243FFFB = some (.loop .always 7 0x7FFB none) ∧
  decodeTableWord 32 0xBA0FFFFA = some (.bra ⟨3, true⟩ 0xFFFFA) ∧
  decodeTableWord 32 0x82600000 = some (.nop .always) ∧
  decodeTableWord 32 0x82A01401 = some (.trap .always 5 1 none) ∧
  decodeTableWord 32 0x82B00007 = some (.bkpt .always 7 none) ∧
  decodeTableWord 32 0x837298E2 = some (.probe .always 5 6 7 2) ∧
  decodeTableWord 32 0x84D3190A = some (.vrshr .always 3 3 4 5 false) ∧
  decodeTableWord 32 0x85CA4902 = some (.vred .always 10 9 4 1 false) ∧
  decodeTableWord 32 0x85DA4900 = some (.vscan .always 10 9 4 false) ∧
  decodeTableWord 32 0x85AFA144 = some (.vpk5 .always 20 5 2) ∧
  decodeTableWord 32 0x85B13504 = some (.vupk5 .always 6 20 2) ∧
  decodeTableWord 32 0x87C00200 = some (.rstr .always 16) ∧
  decodeTableWord 32 0x87A00000 = some (.tretn .always)

/-- Decoding the words of an encoded instruction gives it back: every well-formed syllable, with every operand at every value its
encoding admits, with or without the LIMM that extends it, and whether or not its last word ends the bundle (R275 to R284). -/
def Obligations.DecodeInvertsEncode : Prop :=
  ∀ (i : Instr) (last : Bool), i.isSyllable = true → wellFormed i = true → decodeWords (encodeWords i last) = some i

/-- A bundle of one syllable is encoded in one word and decodes to the one slot that holds it: every well-formed syllable without a
LIMM that may stand alone, which a LIMM and a CPYX may not (R169, R281).

Whatever the decoder accepts in a bundle is well-formed: no reserved field, function, type or register group passes as an
operand (R278, R284). -/
def Obligations.BundlesDecode : Prop :=
  (∀ (i : Instr), i.isSyllable = true → wellFormed i = true → i.payload = none → (∀ l, i ≠ .limm l) →
    (∀ gd a b c x h, i ≠ .cpyx gd a b c x h) → i.dests.Nodup →
    decodeBundle (encodeWords i true) = .ok [⟨0, encode i + 2 ^ 31, none, i⟩]) ∧
  (∀ (ws : List Nat) (slots : List Slot) (sl : Slot), decodeBundle ws = .ok slots → sl ∈ slots →
    sl.instr.guard.ok = true ∧ fieldsOk sl.instr = true ∧ payloadOk sl.instr = true)

/-- A step runs the decoded instruction. In D0, where the agenda's first move is a cycle of a core of a present die that no pre-emption holds
still, its
served context is ready, has no bubble, no unexamined report and no budget trap due, and the bundle at its pc holds one instruction, with
the LIMM that extends it or the X syllable that it carries if it has one, which is in the instruction cache, is not nullified and whose S
accesses its banks accept in this cycle, the step is exec of that instruction on the record opened for it, and then what R20, R24 and R27
add: the bundle closes, its weight enters the window, and the array and the Shutter advance. That each core counts the cycles of its banks
by a clock of its own is the model's choice (log 28). -/
def Obligations.StepRunsTheDecodedInstruction : Prop :=
  ∀ (s : State) (core n : Nat) (ms : List Move) (words : List Nat) (slots : List Slot) (sl : Slot) (t : State),
    let s1 : State := { s with agenda := ms }
    let w := s1.served core
    let c := s1.ctx w
    let u := s1.retry w
    let k := u.core core
    let opened := u.openIssue w slots
    let weight := bundleWeight words + k.engineWeight (some w.ctx)
    s.agenda = .cycle core :: ms → s.power = .d0 → s.diePresent (dieOf core) = true → s.coreFrozen core = false →
    (s1.core core).switching = none → c.bubbles = 0 → s1.ready w = true → c.block = none →
    c.startFault = none → c.reports = [] → c.budget ≠ 0 → c.pc.toNat % 4 = 0 →
    u.fetchBundle w = .ok words → u.cacheHit w words.length = true → decodeBundle words = .ok slots →
    slots.filter (slotAlone slots) = [sl] → (u.ctx w).nullifies slots = false →
    exec sl.instr (({ opened with issue := { opened.issue with overlay := opened.transomRow w slots } }).atSlot sl) = .next t →
    t.issue.verdict = .none →
    u.tryBanks w (u.bundleBanks w slots) = .taken n → u.bundleHeld w slots = false → k.limited weight = false →
    step s = .next ((((t.takeBanks core n (u.bundleBanks w slots)).finishBundle w (u.ctx w) slots).weigh core weight).coreTick core k)

/-- Every step goes on: no state, no instruction and no operand ends a run in a fault or a refusal. -/
def Obligations.EveryStepAnswersANextState : Prop := ∀ s : State, Answers (step s)

/-- Every step keeps the canonical form of every memory: HBM, host memory, the peers' memories, X, Y and W of every core and S of
every cluster, and the buffers of every core that a pre-emption has saved. -/
def Obligations.StepKeepsMemoriesCanonical : Prop := ∀ s t : State, s.MemOk → step s = .next t → t.MemOk

/-- At reset every memory has its canonical form.

What reset leaves: no core has a task and every count is zero (R17; the registers' values are the model's, log 4), PWRLIM is 0xFFFF (R50), lines are raw, PUB and linear
(the value R59 gives a scrubbed line: log 5), no granule is assigned (R99), every interface is in CONFIG_UNLOCKED (R265) and no partition holds anything. -/
def Obligations.ResetState : Prop :=
  (State.reset.MemOk) ∧
  ((∀ w : Who, (State.reset.ctx w).task = none ∧ (State.reset.ctx w).counts.allZero = true ∧
    (State.reset.ctx w).priv = false) ∧
  (∀ k, (State.reset.core k).pwrlim = 0xFFFF) ∧
  (∀ k l, (State.reset.core k).xtags.get LineTag.reset l = ⟨0, .pub, 0⟩ ∧
    (State.reset.core k).ytags.get LineTag.reset l = ⟨0, .pub, 0⟩) ∧
  (∀ dpa, granuleV (State.reset.granule dpa) = false) ∧
  (∀ i, (State.reset.iface i).tdi = 0) ∧
  (∀ p, (State.reset.part p).state = .free))

/-! ### Guards and the latch file -/

/-- R28. A guard is true where its predicate reads 1 and PN is 0 or reads 0 and PN is 1; PG = 0 with PN = 0 is always true; and a
syllable whose guard is false has no effect on any state: it counts in nothing and writes no register or memory. -/
def Obligations.FalseGuardHasNoEffect : Prop :=
  (∀ (c : Ctx) (g : Guard), c.guardTrue g = true ↔
    ((c.readP g.pg).val = true ∧ g.pn = false) ∨ ((c.readP g.pg).val = false ∧ g.pn = true)) ∧
  (∀ c : Ctx, c.guardTrue ⟨0, false⟩ = true) ∧
  (∀ (i : Instr) (s : State), i.isSyllable = true → (∀ l, i ≠ .limm l) → s.cur.guardTrue i.guard = false →
    exec i s = .next s)

/-- A fixed-latency result lands L active cycles after its bundle and not before (R18, R21): through the first L - 1 active cycles
every register file reads as before, and after L the destination holds the value with its tags and the flags are raised, where
nothing else was in the latch file and no result of the code that the context trapped from has landed in the destination. A write to g0 or p0 is discarded (R41).

Two results, issued in this or in different cycles, to one register or two, leave the registers as if each had been written in the order of
issue, whichever lands first; the earlier one is discarded with its flags where the later one to its register has landed (R23, R46). A
variable-latency return that was issued later, as every one of the trapped code is against the handler's writes (R201), stands against a
result still in the latch file, and one of the trapped code against what the handler issues afterwards too.

g0 reads zero with PUB and p0 reads 1 with PUB after any write of any register (R41). -/
def Obligations.ResultsLandAfterTheirLatency : Prop :=
  (∀ (c : Ctx) (l : Nat) (d : Reg) (v : VWord) (fmt : Tag) (sens : Sens) (fl : BitVec 7), c.latch = [] → c.landed.contains d = false → 0 < l →
    (∀ k, k < l → c.SameRegs ((Ctx.tickLatch)^[k] (c.push l d v fmt sens fl)) ∧
      ((Ctx.tickLatch)^[k] (c.push l d v fmt sens fl)).flags = c.flags) ∧
    (c.writeReg d v fmt sens).SameRegs ((Ctx.tickLatch)^[l] (c.push l d v fmt sens fl)) ∧
    ((Ctx.tickLatch)^[l] (c.push l d v fmt sens fl)).flags = c.flags ||| fl ∧
    ((Ctx.tickLatch)^[l] (c.push l d v fmt sens fl)).latch = []) ∧
  (∀ (c : Ctx) (j l m : Nat) (d e : Reg) (v x : VWord) (fmt ty : Tag) (sens z : Sens) (fl gl : BitVec 7), c.latch = [] →
    c.landed = [] → j < l → 0 < m →
    let t := (Ctx.tickLatch)^[max m (l - j)] (((Ctx.tickLatch)^[j] (c.push l d v fmt sens fl)).push m e x ty z gl)
    ((c.writeReg d v fmt sens).writeReg e x ty z).SameRegs t ∧ t.latch = [] ∧
    (d ≠ e ∨ l < j + m → t.flags = c.flags ||| fl ||| gl) ∧ (d = e → j + m < l → t.flags = c.flags ||| gl)) ∧
  (∀ (c : Ctx) (o : VlOp) (l : Nat) (d : Reg) (v x : VWord) (fmt ty : Tag) (sens z : Sens) (fl : BitVec 7), c.latch = [] →
    c.landed = [] → o.dropped.contains d = false →
    let stands (u : Ctx) : Prop := ∀ k, (c.writeReg d x ty z).SameRegs ((Ctx.tickLatch)^[k] u) ∧ ((Ctx.tickLatch)^[k] u).flags = c.flags
    (earlier c.era c.seq o.era o.id = true → stands ((c.push l d v fmt sens fl).landOp o z [(d, x, ty)])) ∧
    (c.era < o.era → stands ((c.landOp o z [(d, x, ty)]).push l d v fmt sens fl))) ∧
  (∀ (c : Ctx) (d : Reg) (v : VWord) (fmt : Tag) (sens : Sens),
    (c.writeReg d v fmt sens).readG 0 = ⟨0, .pub⟩ ∧ (c.writeReg d v fmt sens).readP 0 = ⟨true, .pub⟩ ∧
    c.writeReg (.g 0) v fmt sens = c ∧ c.writeReg (.p 0) v fmt sens = c)

/-! ### Scalar syllables -/

/-- The RR syllables of the S class run in every mode on every operand (R294, R318, R353, R400): each puts its result, with the higher
sensitivity of its sources, in the latch file at its latency, and changes nothing else. Shift amounts are taken modulo 64; a zero
divisor gives all ones and the dividend; SEL also takes its predicate's sensitivity.

CLZ counts the zero bits above the highest one bit, 64 for zero; POPC counts the one bits (R294, R318). -/
def Obligations.ScalarRegisterOperations : Prop :=
  (∀ (s : State) (gd : Guard) (d a b : BitVec 5) (u : Bool) (q : BitVec 3), s.cur.guardTrue gd = true →
    let x := s.gw a
    let y := s.gw b
    let put (l : Nat) (v : Word) : Ctx := s.cur.withG l d v ((s.gsens a).max (s.gsens b))
    Runs (.add gd d a b) s (put 1 (x + y)) ∧
    Runs (.sub gd d a b) s (put 1 (x - y)) ∧
    Runs (.and gd d a b) s (put 1 (x &&& y)) ∧
    Runs (.or gd d a b) s (put 1 (x ||| y)) ∧
    Runs (.xor gd d a b) s (put 1 (x ^^^ y)) ∧
    Runs (.andn gd d a b) s (put 1 (x &&& ~~~y)) ∧
    Runs (.shl gd d a b) s (put 1 (x <<< (y.toNat % 64))) ∧
    Runs (.shr gd d a b) s (put 1 (x >>> (y.toNat % 64))) ∧
    Runs (.shra gd d a b) s (put 1 (x.sshiftRight (y.toNat % 64))) ∧
    Runs (.mul gd d a b) s (put 3 (BitVec.ofNat 64 (x.toNat * y.toNat))) ∧
    Runs (.mulh gd d a b u) s (put 3 (if u then BitVec.ofNat 64 (x.toNat * y.toNat / 2 ^ 64)
      else BitVec.ofInt 64 (x.toInt * y.toInt / 2 ^ 64))) ∧
    Runs (.div gd d a b u) s (put 20 (if y = 0 then BitVec.allOnes 64 else if u then BitVec.ofNat 64 (x.toNat / y.toNat)
      else BitVec.ofInt 64 (x.toInt.tdiv y.toInt))) ∧
    Runs (.rem gd d a b u) s (put 20 (if y = 0 then x else if u then BitVec.ofNat 64 (x.toNat % y.toNat)
      else BitVec.ofInt 64 (x.toInt.tmod y.toInt))) ∧
    Runs (.min gd d a b u) s (put 1 (if u then (if x.toNat ≤ y.toNat then x else y) else if x.toInt ≤ y.toInt then x else y)) ∧
    Runs (.max gd d a b u) s (put 1 (if u then (if y.toNat ≤ x.toNat then x else y) else if y.toInt ≤ x.toInt then x else y)) ∧
    Runs (.sel gd d a b q) s (s.cur.withG 1 d (if (s.cur.readP q).val then x else y)
      (((s.gsens a).max (s.gsens b)).max (s.cur.readP q).sens))) ∧
  ((∀ x : Word, x ≠ 0 → (clz64 x).toNat < 64 ∧ x.getLsbD (63 - (clz64 x).toNat) = true ∧
    ∀ k, 63 - (clz64 x).toNat < k → x.getLsbD k = false) ∧
  clz64 0 = 64 ∧
  (∀ x : Word, (popc64 x).toNat = ((List.finRange 64).filter (fun i => x.getLsbD i.val)).length))

/-- The syllables of one g source and the immediates (R279, R294, R295, R318, R329, R337, R358): an immediate is sign-extended from its
field, 10 or 15 bits, or 30 or 35 with a LIMM; LI's result is PUB. -/
def Obligations.ScalarImmediateOperations : Prop :=
  ∀ (s : State) (gd : Guard) (d a : BitVec 5) (i : BitVec 10) (j : BitVec 15) (h : BitVec 6) (r : Bool)
    (l : BitVec 20) (xl : Option (BitVec 20)), s.cur.guardTrue gd = true →
    let x := s.gw a
    let put (v : Word) : Ctx := s.cur.withG 1 d v (s.gsens a)
    Runs (.addi gd d a i none) s (put (x + i.signExtend 64)) ∧
    Runs (.addi gd d a i (some l)) s (put (x + (l ++ i).signExtend 64)) ∧
    Runs (.andi gd d a i none) s (put (x &&& i.signExtend 64)) ∧
    Runs (.andi gd d a i (some l)) s (put (x &&& (l ++ i).signExtend 64)) ∧
    Runs (.ori gd d a i none) s (put (x ||| i.signExtend 64)) ∧
    Runs (.ori gd d a i (some l)) s (put (x ||| (l ++ i).signExtend 64)) ∧
    Runs (.shli gd d a h xl) s (put (x <<< h.toNat)) ∧
    Runs (.shri gd d a r h xl) s (put (if r then x.sshiftRight h.toNat else x >>> h.toNat)) ∧
    Runs (.clz gd d a) s (put (clz64 x)) ∧
    Runs (.popc gd d a) s (put (popc64 x)) ∧
    Runs (.li gd d j none) s (s.cur.withG 1 d (j.signExtend 64) .pub) ∧
    Runs (.li gd d j (some l)) s (s.cur.withG 1 d ((l ++ j).signExtend 64) .pub) ∧
    Runs (.lih gd d j none) s (s.cur.withG 1 d ((j.signExtend 64 <<< 29) ||| (s.gw d &&& 0x1FFFFFFF#64)) (s.gsens d)) ∧
    Runs (.lih gd d j (some l)) s
      (s.cur.withG 1 d (((l ++ j).signExtend 64 <<< 29) ||| (s.gw d &&& 0x1FFFFFFF#64)) (s.gsens d))

/-- CMP, CMPI and PLOG (R310, R338): the predicate of the condition on s64 or n64 operands, or on their low 32 bits, with the higher
sensitivity of the sources, at L = 1. -/
def Obligations.PredicateOperations : Prop :=
  ∀ (s : State) (gd : Guard) (d pa pb : BitVec 3) (a b j : BitVec 5), s.cur.guardTrue gd = true →
    let x := s.gw a
    let y := s.gw b
    let k : Word := j.signExtend 64
    let both := (s.gsens a).max (s.gsens b)
    let p := s.cur.readP pa
    let q := s.cur.readP pb
    let put (v : Bool) : Ctx := s.cur.withP 1 d v both
    let puti (v : Bool) : Ctx := s.cur.withP 1 d v (s.gsens a)
    let putp (v : Bool) : Ctx := s.cur.withP 1 d v (p.sens.max q.sens)
    (Runs (.cmp gd d a b 0 0) s (put (x == y)) ∧ Runs (.cmp gd d a b 1 0) s (put (x != y)) ∧
     Runs (.cmp gd d a b 2 0) s (put (x.slt y)) ∧ Runs (.cmp gd d a b 3 0) s (put (!x.slt y)) ∧
     Runs (.cmp gd d a b 4 0) s (put (x.ult y)) ∧ Runs (.cmp gd d a b 5 0) s (put (!x.ult y)) ∧
     Runs (.cmp gd d a b 6 0) s (put (x &&& y != 0)) ∧ Runs (.cmp gd d a b 7 0) s (put (x &&& y == 0))) ∧
    (Runs (.cmp gd d a b 0 1) s (put (x.setWidth 32 == y.setWidth 32)) ∧
     Runs (.cmp gd d a b 1 1) s (put (x.setWidth 32 != y.setWidth 32)) ∧
     Runs (.cmp gd d a b 2 1) s (put ((x.setWidth 32).slt (y.setWidth 32))) ∧
     Runs (.cmp gd d a b 3 1) s (put (!(x.setWidth 32).slt (y.setWidth 32))) ∧
     Runs (.cmp gd d a b 4 1) s (put ((x.setWidth 32).ult (y.setWidth 32))) ∧
     Runs (.cmp gd d a b 5 1) s (put (!(x.setWidth 32).ult (y.setWidth 32))) ∧
     Runs (.cmp gd d a b 6 1) s (put (x.setWidth 32 &&& y.setWidth 32 != 0)) ∧
     Runs (.cmp gd d a b 7 1) s (put (x.setWidth 32 &&& y.setWidth 32 == 0))) ∧
    (Runs (.cmpi gd d a j 0 0) s (puti (x == k)) ∧
     Runs (.cmpi gd d a j 1 0) s (puti (x != k)) ∧
     Runs (.cmpi gd d a j 2 0) s (puti (x.slt k)) ∧
     Runs (.cmpi gd d a j 3 0) s (puti (!x.slt k)) ∧
     Runs (.cmpi gd d a j 4 0) s (puti (x.ult k)) ∧
     Runs (.cmpi gd d a j 5 0) s (puti (!x.ult k)) ∧
     Runs (.cmpi gd d a j 6 0) s (puti (x &&& k != 0)) ∧
     Runs (.cmpi gd d a j 7 0) s (puti (x &&& k == 0))) ∧
    (Runs (.cmpi gd d a j 0 1) s (puti ((x.setWidth 32) == (k.setWidth 32))) ∧
     Runs (.cmpi gd d a j 1 1) s (puti ((x.setWidth 32) != (k.setWidth 32))) ∧
     Runs (.cmpi gd d a j 2 1) s (puti ((x.setWidth 32).slt (k.setWidth 32))) ∧
     Runs (.cmpi gd d a j 3 1) s (puti (!(x.setWidth 32).slt (k.setWidth 32))) ∧
     Runs (.cmpi gd d a j 4 1) s (puti ((x.setWidth 32).ult (k.setWidth 32))) ∧
     Runs (.cmpi gd d a j 5 1) s (puti (!(x.setWidth 32).ult (k.setWidth 32))) ∧
     Runs (.cmpi gd d a j 6 1) s (puti ((x.setWidth 32) &&& (k.setWidth 32) != 0)) ∧
     Runs (.cmpi gd d a j 7 1) s (puti ((x.setWidth 32) &&& (k.setWidth 32) == 0))) ∧
    (Runs (.plog gd d pa pb 0) s (putp (p.val && q.val)) ∧ Runs (.plog gd d pa pb 1) s (putp (p.val || q.val)) ∧
     Runs (.plog gd d pa pb 2) s (putp (p.val != q.val)) ∧ Runs (.plog gd d pa pb 3) s (putp (p.val && !q.val)) ∧
     Runs (.plog gd d pa pb 4) s (putp (p.val || !q.val)) ∧ Runs (.plog gd d pa pb 5) s (putp (!(p.val && q.val))) ∧
     Runs (.plog gd d pa pb 6) s (putp (!(p.val || q.val))) ∧ Runs (.plog gd d pa pb 7) s (putp (p.val == q.val)))

/-! ### Control syllables -/

/-- BRA, CALL, JR, RET and LOOP (R301, R323, R332): the target is the bundle's address plus four times the sign-extended offset, or
the register's value where it is a multiple of 4, and an alignment trap with that value where it is not; CALL puts the address after the bundle in g31 with PUB; LOOP puts the count less
one, modulo 2^64, in its register and branches where that is not zero. Nothing else changes.

After its bundle a taken branch leaves the pc at the target with two bubbles to come; a bundle without one leaves the pc after
its last syllable and no new bubble (R27, R282). An END in task mode leaves the pc and waits; in supervisor mode it terminates the task with
TRAPCAUSE's cause once its bundle has issued, whose fixed-latency results and stores to S and global memory are discarded with the latch
files, and a branch of the bundle has no effect (R204, R319).

NOP changes nothing, and LIMM, which extends its neighbour, nothing of its own (R331); END marks the bundle as the task's last (R319,
R336); WAITN issues without effect where every count it limits is at or below its limit, a limit of 15 being none, and blocks where one is
above (R37, R395). -/
def Obligations.ControlSyllablesRun : Prop :=
  (∀ (s : State) (gd : Guard) (o : BitVec 20) (d a : BitVec 5) (j : BitVec 15) (xl : Option (BitVec 20)),
    s.cur.guardTrue gd = true →
    let goes (t : State) (x : Word) : State := { t with issue := { t.issue with target := some x } }
    let base := s.issue.base
    let c := s.gw d - 1
    let off : Word := match xl with
      | none => j.signExtend 64
      | some l => (l ++ j).signExtend 64
    exec (.bra gd o) s = .next (goes s (base + 4 * o.signExtend 64)) ∧
    exec (.call gd o) s = .next (goes (s.pushG 1 31 (base + 4 * BitVec.ofNat 64 s.issue.count) .pub)
      (base + 4 * o.signExtend 64)) ∧
    ((s.gw a).toNat % 4 = 0 → exec (.jr gd a) s = .next (goes s (s.gw a))) ∧
    ((s.gw 31).toNat % 4 = 0 → exec (.ret gd) s = .next (goes s (s.gw 31))) ∧
    exec (.loop gd d j xl) s =
      .next (if c = 0 then s.pushG 1 d c (s.gsens d) else goes (s.pushG 1 d c (s.gsens d)) (base + 4 * off)) ∧
    ((s.gw a).toNat % 4 ≠ 0 → exec (.jr gd a) s = s.raise 0x07 (s.gw a)) ∧
    ((s.gw 31).toNat % 4 ≠ 0 → exec (.ret gd) s = s.raise 0x07 (s.gw 31))) ∧
  (∀ (s : State) (w : Who) (c0 : Ctx) (slots : List Slot), c0.priv = (s.ctx w).priv →
    let t := (s.closeBundle w c0 slots).ctx w
    (∀ a, s.issue.target = some a → s.issue.ended = false → t.pc = a ∧ t.bubbles = 2) ∧
    (s.issue.target = none → s.issue.ended = false →
      t.pc = s.issue.base + 4 * BitVec.ofNat 64 slots.length ∧ t.bubbles = (s.ctx w).bubbles) ∧
    (s.issue.ended = true → c0.priv = false → t.pc = (s.ctx w).pc ∧ t.ending = some slots.length)) ∧
  (∀ (s : State) (w : Who) (c0 : Ctx) (slots : List Slot), s.issue.ended = true → c0.priv = true → (s.ctx w).terminating = none →
    let c := s.ctx w
    let t := (s.finishBundle w c0 slots).ctx w
    t.terminating = some (c0.trapCause.setWidth 8) ∧ t.latch = [] ∧ t.held = none ∧ t.reports = [] ∧ t.stores = [] ∧ t.ending = none ∧
      c.SameRegs t ∧ t.pc = c.pc ∧ t.bubbles = 0 ∧ t.acyc = c.acyc ∧ t.taskId = c.taskId ∧ t.trapPc = c.trapPc) ∧
  (∀ (s : State) (gd : Guard) (a b c d e : BitVec 4), s.cur.guardTrue gd = true →
    let n := s.cur.counts
    let below (lim : BitVec 4) (k : Nat) : Prop := lim = 15 ∨ k ≤ lim.toNat
    let all : Prop := below a n.gl ∧ below b n.gs ∧ below c n.cp ∧ below d n.mt ∧ below e n.sf
    exec (.nop gd) s = .next s ∧
    (∀ l, exec (.limm l) s = .next s) ∧
    exec (.endTask gd) s = .next { s with issue := { s.issue with ended := true } } ∧
    (all → exec (.waitn gd a b c d e) s = .next s) ∧
    (¬all → ∃ t, exec (.waitn gd a b c d e) s = .next t ∧ t.issue.verdict = .blocked (.waitn (waitnLimits a b c d e))))

/-- TRAP raises cause 0x20 + n with TRAPVAL the register's 64 bits; BKPT raises cause 0x15 with its code and the number of syllables of
its bundle in bits 35:32 and up; a syllable that is no instruction raises cause 0x01 with itself and the LIMM that extends it (R197, R284,
R300, R363). In task mode each enters the handler. -/
def Obligations.SoftwareTraps : Prop :=
  ∀ (s : State) (gd : Guard) (a n : BitVec 5) (k : BitVec 10) (xl : Option (BitVec 20)) (x : Syllable) (l : Option Syllable),
    let code : Word := match xl with
      | none => k.setWidth 64
      | some l => (l ++ k).setWidth 64
    let both : Word := match l with
      | none => x.setWidth 64
      | some l => (l ++ x).setWidth 64
    let traps (i : Instr) (cause : BitVec 8) (val : Word) : Prop := ∃ t, exec i s = .next t ∧ s.raise cause val = .next t ∧
      (s.cur.priv = false → s.EntersHandler t cause val)
    (s.cur.guardTrue gd = true → traps (.trap gd a n xl) (0x20 + n.setWidth 8) (s.gw a)) ∧
    (s.cur.guardTrue gd = true → traps (.bkpt gd k xl) 0x15 (code ||| BitVec.ofNat 64 s.issue.count <<< 32)) ∧
    traps (.illegalEncoding x l) 0x01 both

/-- Taking a trap (R200 to R202, R204). In task mode the context enters its handler; in supervisor mode its task terminates: its latch files,
reports and unpublished stores are discarded, and the cause of its termination is the trap's; the pc, the registers and every byte of
memory stay.

R203. TRETN in supervisor mode with an empty latch file of the handler: the held latch file comes back, PRIV takes PPRIV, the pc is
TRAPPC, and no register changes. While the handler's latch file holds a result it waits. -/
def Obligations.TrapEntryAndReturn : Prop :=
  (∀ (s : State) (cause : BitVec 8) (val : Word),
    (s.cur.priv = false → ∃ t, s.raise cause val = .next t ∧ s.EntersHandler t cause val) ∧
    (s.cur.priv = true → s.cur.terminating = none →
      ∃ t, s.raise cause val = .next t ∧ t.cur.terminating = some cause ∧ t.cur.latch = [] ∧ t.cur.held = none ∧
        t.cur.reports = [] ∧ t.cur.stores = [] ∧ t.cur.pc = s.cur.pc ∧ s.cur.SameRegs t.cur ∧ s.SameBytes t)) ∧
  (∀ (s : State) (gd : Guard), s.cur.guardTrue gd = true → s.cur.priv = true →
    (s.cur.latch = [] → ∃ c, Runs (.tretn gd) s c ∧ c.latch = s.cur.held.getD [] ∧ c.held = none ∧
      c.priv = s.cur.ppriv ∧ c.pc = s.cur.trapPc ∧ s.cur.SameRegs c ∧ c.flags = s.cur.flags ∧ c.counts = s.cur.counts) ∧
    (s.cur.latch ≠ [] → exec (.tretn gd) s = .next { s with issue := { s.issue with verdict := .waits } }))

/-- R47, R44, R197, R325, R349. In task mode TRETN, DECL, RSTR, SCRUB and KROT, and an access to a control register marked PRV, raise a
privilege trap with the syllable in TRAPVAL. TVEC, the trap registers, HASHKEY, PWRLIM and LATCH0 to
LATCH15 are PRV in task mode. A command that CP has no room for, whose counter handle waits for a translation, or a SCRUB whose core is
busy, blocks first (R31). -/
def Obligations.PrivilegedInTaskMode : Prop :=
  ∀ (s : State) (gd : Guard) (g b c : BitVec 5) (n : BitVec 10) (xl : Option (BitVec 20)), s.cur.guardTrue gd = true →
    s.cur.priv = false →
    let trap := s.raise 0x03 s.sylWord
    let held (h : Word) : Prop := ∀ m, s.checkHandle s.who s.cur.part s.cur.hashKey true h ≠ .block m
    exec (.tretn gd) s = trap ∧ exec (.decl gd g) s = trap ∧
    (s.cur.counts.cp < 32 → exec (.rstr gd g) s = trap) ∧
    (s.cur.counts.cp < 32 → held (s.gw b) → exec (.krot gd g b c) s = trap) ∧
    (s.cur.counts.cp < 32 → held (s.gw (g + 3)) → (s.gw g).toNat % 16 = 0 ∨ (s.core s.issue.core).scrubReady s.issue.ctx = true →
      exec (.scrub gd g b c) s = trap) ∧
    (n ∈ [0x019#10, 0x01A#10, 0x01B#10, 0x01C#10, 0x020#10, 0x022#10] ∨ (0x040 ≤ n.toNat ∧ n.toNat ≤ 0x04F) →
      exec (.cget gd n g) s = trap ∧ exec (.cset gd n g xl) s = trap)

/-! ### Control registers -/

/-- CGET (R44, R47, R48, R305, R306): every register of R44 but LATCH1 to LATCH15, which the next statement reads, is read with PUB into
a g register at L = 1; those marked PRV in task mode in supervisor mode alone.

CSET from a g register or a LIMM's payload (R43 to R49, R305, R307): FLAGS and FRM in task mode, from a PUB source, and in supervisor
mode; TASKID, NESTID, BUDGET, TVEC, TRAPPC, TRAPCAUSE, TRAPVAL, HASHKEY and AGE in supervisor mode. Bits that a register does not use
are dropped, TVEC's low bits read 0, and a register that is RO in the mode keeps its value; nothing else changes.

KSLOT_WRITE, and CSET of KSLOT from a g register or a LIMM (R49, R307): in supervisor mode a slot granted to the partition becomes KSLOT; one that is not
raises an illegal-operand trap and leaves KSLOT unchanged. The TRAPVALs of these traps are R197's, and the fields of LATCH0 R206's. -/
def Obligations.ControlRegistersReadAndWrite : Prop :=
  (∀ (s : State) (gd : Guard) (g : BitVec 5), s.cur.guardTrue gd = true →
    let c := s.cur
    let reads (n : BitVec 10) (v : Word) : Prop := Runs (.cget gd n g) s (c.withG 1 g v .pub)
    reads 0x000 (BitVec.ofNat 64 (s.issue.ctx % 4)) ∧ reads 0x001 (BitVec.ofNat 64 s.issue.core) ∧ reads 0x002 s.feat ∧
    reads 0x008 c.taskId ∧ reads 0x009 (c.nestId.setWidth 64) ∧ reads 0x00A c.budget ∧ reads 0x00B c.acyc ∧
    reads 0x00C c.frz ∧ reads 0x00D c.bankStall ∧ reads 0x010 (c.flags.setWidth 64) ∧ reads 0x011 (c.frm.setWidth 64) ∧
    reads 0x018 (BitVec.ofNat 64 (c.priv.toNat + 2 * c.ppriv.toNat)) ∧
    reads 0x021 (BitVec.ofNat 64 (c.kslot.toNat + (s.key c.kslot.toNat).ver.toNat * 2 ^ 32)) ∧
    reads 0x023 (c.age.setWidth 64) ∧ reads 0x024 c.sealst ∧
    reads 0x080 (BitVec.ofNat 64 ((s.core s.issue.core).pendingBytes 0)) ∧
    reads 0x081 (BitVec.ofNat 64 ((s.core s.issue.core).pendingBytes 1)) ∧
    reads 0x082 (BitVec.ofNat 64 ((s.core s.issue.core).pendingBytes 2)) ∧
    reads 0x083 (BitVec.ofNat 64 ((s.core s.issue.core).pendingBytes 3)) ∧
    (c.priv = true →
      reads 0x019 c.tvec ∧ reads 0x01A c.trapPc ∧ reads 0x01B (c.trapCause.setWidth 64) ∧ reads 0x01C c.trapVal ∧
      reads 0x020 c.hashKey ∧ reads 0x022 ((s.core s.issue.core).pwrlim.setWidth 64) ∧ reads 0x040 c.latch0)) ∧
  (∀ (s : State) (gd : Guard) (g : BitVec 5) (xl : Option (BitVec 20)), s.cur.guardTrue gd = true →
    let c := s.cur
    let v : Word := match xl with
      | some l => l.setWidth 64
      | none => s.gw g
    let runs (n : BitVec 10) (d : Ctx) : Prop := Runs (.cset gd n g xl) s d
    (c.priv = true ∨ xl.isSome = true ∨ s.gsens g = .pub →
      runs 0x010 { c with flags := v.setWidth 7 } ∧ runs 0x011 { c with frm := v.setWidth 3 } ∧
      (∀ n ∈ [0x000#10, 0x001#10, 0x002#10, 0x00B#10, 0x00C#10, 0x00D#10, 0x018#10, 0x024#10, 0x080#10, 0x081#10, 0x082#10,
        0x083#10], runs n c) ∧
      (c.priv = false → ∀ n ∈ [0x008#10, 0x009#10, 0x00A#10, 0x021#10, 0x023#10], runs n c)) ∧
    (c.priv = true →
      runs 0x008 { c with taskId := v } ∧ runs 0x009 { c with nestId := v.setWidth 16 } ∧
      runs 0x00A { c with budget := v } ∧ runs 0x019 { c with tvec := v &&& ~~~3#64 } ∧
      runs 0x01A { c with trapPc := v } ∧ runs 0x01B { c with trapCause := v.setWidth 11 } ∧
      runs 0x01C { c with trapVal := v } ∧ runs 0x020 { c with hashKey := v } ∧ runs 0x022 c ∧
      runs 0x023 { c with age := v.setWidth 32 } ∧
      runs 0x040 { c with latchSelE := v.setWidth 6, latchSelW := v.extractLsb' 8 5 }) ∧
    (c.priv = false → xl = none → s.gsens g ≠ .pub → ∀ n ∈ [0x010#10, 0x011#10, 0x008#10, 0x021#10],
      exec (.cset gd n g xl) s = s.raise 0x05 (g.setWidth 64))) ∧
  (∀ (s : State) (gd : Guard) (g : BitVec 5) (xl : Option (BitVec 20)) (v : Word), s.cur.guardTrue gd = true → s.cur.priv = true →
    let k := s.key (v.toNat % 8192)
    let given : Prop := match xl with
      | some l => l.setWidth 64 = v
      | none => s.gw g = v
    (k.ty = 2 → k.part.toNat = s.cur.part →
      Runs (.kslotWrite v) s { s.cur with kslot := v.setWidth 13 } ∧
      (given → Runs (.cset gd 0x021 g xl) s { s.cur with kslot := v.setWidth 13 })) ∧
    (¬(k.ty = 2 ∧ k.part.toNat = s.cur.part) →
      exec (.kslotWrite v) s = s.raise 0x08 v ∧ (given → exec (.cset gd 0x021 g xl) s = s.raise 0x08 v)))

/-- CGET of LATCH1 and LATCH2 in supervisor mode (R207, R208): the selected entry's descriptor with PUB, and word W of its value with the
entry's sensitivity; 0 with PUB where E is beyond the last entry.

LATCH1_WRITE and LATCH2_WRITE (R205 to R208): in the entry that LATCH0 selects a write of LATCH1 replaces FL, clears V where bit 63 is
0 and never sets it, replaces SENS unless the value is 3, and replaces FMT for v and q; LATCH2 replaces word W of the value, or bit 0 of a
p value, within the destination's width. With no such entry nothing changes; the destination and REM never do. That FMT of a q entry takes
any code written is the model's choice (log 65). A supervisor CSET of LATCH1 or LATCH2 is such a write; LATCH3 to LATCH15 read zero and
ignore writes (R205). -/
def Obligations.LatchWindow : Prop :=
  (∀ (s : State) (gd : Guard) (g : BitVec 5), s.cur.guardTrue gd = true → s.cur.priv = true →
    let h := s.cur.held.getD []
    (h.length ≤ s.cur.latchSelE.toNat →
      Runs (.cget gd 0x041 g) s (s.cur.withG 1 g 0 .pub) ∧ Runs (.cget gd 0x042 g) s (s.cur.withG 1 g 0 .pub)) ∧
    (∀ e, h[s.cur.latchSelE.toNat]? = some e →
      Runs (.cget gd 0x041 g) s (s.cur.withG 1 g e.descriptor .pub) ∧
      Runs (.cget gd 0x042 g) s (s.cur.withG 1 g (e.word s.cur.latchSelW.toNat) e.sens) ∧
      (e.rem < 32 → e.descriptor.getLsbD 63 = e.live ∧ e.descriptor.extractLsb' 27 5 = BitVec.ofNat 5 e.rem ∧
        e.descriptor.extractLsb' 20 7 = e.flags ∧ e.descriptor.extractLsb' 18 2 = BitVec.ofNat 2 e.sens.code ∧
        e.descriptor.extractLsb' 14 4 = e.fmt ∧ e.descriptor.extractLsb' 11 3 = BitVec.ofNat 3 (regFile e.dest).1 ∧
        e.descriptor.extractLsb' 6 5 = BitVec.ofNat 5 (regFile e.dest).2))) ∧
  (∀ (s : State) (v : Word) (h : List LatchEntry), s.cur.held = some h →
    let n := s.cur.latchSelE.toNat
    let w := s.cur.latchSelW.toNat
    (h.length ≤ n → Runs (.latch1Write v) s s.cur ∧ Runs (.latch2Write v) s s.cur) ∧
    (∀ e, h[n]? = some e →
      (∃ f, Runs (.latch1Write v) s { s.cur with held := some (h.set n f) } ∧
        f.dest = e.dest ∧ f.val = e.val ∧ f.rem = e.rem ∧ f.era = e.era ∧ f.seq = e.seq ∧
        f.flags = v.extractLsb' 20 7 ∧ f.live = (e.live && v.getLsbD 63) ∧
        (v.extractLsb' 18 2 = 0 → f.sens = .pub) ∧ (v.extractLsb' 18 2 = 1 → f.sens = .ten) ∧
        (v.extractLsb' 18 2 = 2 → f.sens = .seal) ∧ (v.extractLsb' 18 2 = 3 → f.sens = e.sens) ∧
        ((∃ r, e.dest = .v r) ∨ (∃ r, e.dest = .q r) → f.fmt = v.extractLsb' 14 4) ∧
        ((∃ r, e.dest = .g r) ∨ (∃ r, e.dest = .p r) ∨ (∃ r, e.dest = .m r) → f.fmt = e.fmt)) ∧
      (∃ f, Runs (.latch2Write v) s { s.cur with held := some (h.set n f) } ∧
        f.dest = e.dest ∧ f.fmt = e.fmt ∧ f.sens = e.sens ∧ f.flags = e.flags ∧ f.rem = e.rem ∧ f.live = e.live ∧
        f.era = e.era ∧ f.seq = e.seq ∧
        (∀ k, k < 32 → k ≠ w → f.word k = e.word k) ∧
        (∀ r, e.dest = .v r → f.word w = v) ∧
        (∀ r, e.dest = .m r → f.word w = if w < 4 then v else e.word w) ∧
        (∀ r, e.dest = .q r → f.word w = if w < 4 then v else e.word w) ∧
        (∀ r, e.dest = .g r → f.word w = if w = 0 then v else e.word w) ∧
        (∀ r, e.dest = .p r → f.word w = if w = 0 then v &&& 1 else e.word w)))) ∧
  (∀ (s : State) (gd : Guard) (g : BitVec 5) (n : BitVec 10) (xl : Option (BitVec 20)), s.cur.guardTrue gd = true →
    s.cur.priv = true →
    let v : Word := match xl with
      | some l => l.setWidth 64
      | none => s.gw g
    exec (.cset gd 0x041 g xl) s = exec (.latch1Write v) s ∧ exec (.cset gd 0x042 g xl) s = exec (.latch2Write v) s ∧
    (0x043 ≤ n.toNat → n.toNat ≤ 0x04F → Runs (.cget gd n g) s (s.cur.withG 1 g 0 .pub) ∧ Runs (.cset gd n g xl) s s.cur))

/-! ### Loads and stores -/

/-- LD and VLD from the X and Y buffers (R57, R86 to R90, R326, R382, R383): aligned and inside the buffer, on lines that have not
failed, the bytes reach the register at L = 3 with the line's sensitivity; a scalar is zero-extended, and a vector takes the type, or
the line's tag where the type is raw.

LD and VLD from S space and global memory (R36, R88, R93, R101): where the address is in the window, or every page is reached, and the
count GL has room, one operation goes in flight that reads the named bytes at their homes, and GL rises by 1. That an S line's FMT is
taken as it stands at issue is the model's choice (log 62). -/
def Obligations.LoadsIssue : Prop :=
  (∀ (s : State) (gd : Guard) (r b : BitVec 5) (y : Bool) (z : BitVec 2) (o : BitVec 5) (o2 : BitVec 2) (t : BitVec 4),
    s.cur.guardTrue gd = true →
    let sp : BitVec 3 := if y then 1 else 0
    let k := s.core s.issue.core
    let m := k.buf y
    let len := if y then 131072 else 262144
    let tag (a : Nat) : LineTag := (k.bufTags y).get LineTag.reset (a / 256)
    let n := 2 ^ z.toNat
    let ea := s.gw b + BitVec.ofNat 64 (o.toNat * n)
    let ev := s.gw b + BitVec.ofNat 64 (o2.toNat * 256)
    (ea.toNat + n ≤ len → ea.toNat % n = 0 → k.bufOk y ea.toNat n = true →
      Runs (.ld gd r b sp z o) s
        (s.cur.push 3 (.g r) (BitVec.ofNat 2048 (leNat (m.bytes ea.toNat n))) 0 (tag ea.toNat).sens 0)) ∧
    (ev.toNat + 256 ≤ len → ev.toNat % 256 = 0 → k.bufOk y ev.toNat 256 = true → s.v31Busy r = false →
      t = 0 ∨ (tag ev.toNat).fmt = 0 ∨ (tag ev.toNat).fmt = t →
      Runs (.vld gd r b sp t false o2) s
        (s.cur.push 3 (.v r) (BitVec.ofNat 2048 (leNat (m.bytes ev.toNat 256)))
          (if t = 0 then (tag ev.toNat).fmt else t) (tag ev.toNat).sens 0)) ∧
    (ev.toNat + 32 ≤ len → ev.toNat % 32 = 0 → k.bufOk y ev.toNat 32 = true →
      t = 0 ∨ (tag ev.toNat).fmt = 0 ∨ (tag ev.toNat).fmt = t →
      Runs (.vld gd r b sp t true o2) s
        (s.cur.push 3 (.q (r.setWidth 2)) (BitVec.ofNat 2048 (leNat (m.bytes ev.toNat 32)))
          (if t = 0 then (if (tag ev.toNat).fmt = 8 then 8 else 0) else t) (tag ev.toNat).sens 0))) ∧
  (∀ (s : State) (gd : Guard) (r b : BitVec 5) (z : BitVec 2) (o : BitVec 5) (o2 : BitVec 2) (t : BitVec 4) (q : Bool),
    s.cur.guardTrue gd = true → s.cur.counts.gl < 48 →
    let n := 2 ^ z.toNat
    let ea := s.gw b + BitVec.ofNat 64 (o.toNat * n)
    let ev := s.gw b + BitVec.ofNat 64 (o2.toNat * 256)
    let nv := if q then 32 else 256
    let win := (s.window s.issue.core s.cur.part).2
    let tag (a : Nat) : LineTag := s.sTag s.who s.myCluster (s.phys a)
    let inS (a k : Nat) : List LoadUnit := [s.loadUnit ⟨.s s.myCluster, s.phys a, a, noPage s.cur.part, 0, k⟩]
    let sens (ps : List Piece) : Sens := ps.foldl (fun (acc : Sens) (p : Piece) => acc.max (s.pageSens p.place p.addr)) .pub
    (ea.toNat + n ≤ win → ea.toNat % n = 0 → s.rangeOk (.s s.myCluster) (s.phys ea.toNat) n = true →
      ∃ u : State, exec (.ld gd r b 3 z o) s = .next u ∧
        s.Issues u (.load (inS ea.toNat n) (.g r) 0) ea.toNat (tag ea.toNat).sens none .gl) ∧
    (ev.toNat + nv ≤ win → ev.toNat % nv = 0 → s.rangeOk (.s s.myCluster) (s.phys ev.toNat) nv = true →
      (q = false → s.v31Busy r = false) → t = 0 ∨ (tag ev.toNat).fmt = 0 ∨ (tag ev.toNat).fmt = t →
      ∃ u : State, exec (.vld gd r b 3 t q o2) s = .next u ∧
        s.Issues u (.load (inS ev.toNat nv) (vldDest r q) (vldTag t q (some (tag ev.toNat).fmt))) ev.toNat
          (tag ev.toNat).sens none .gl) ∧
    (∀ ps, ea.toNat < 2 ^ 56 → ea.toNat % n = 0 → s.reachAll .load .pub (linePieces ea.toNat n) = .inl (.ok ps) →
      ∃ u : State, exec (.ld gd r b 4 z o) s = .next u ∧
        s.Issues u (.load (ps.map s.loadUnit) (.g r) 0) ea.toNat (sens ps) none .gl) ∧
    (∀ ps, ev.toNat < 2 ^ 56 → ev.toNat % (if q then 32 else 64) = 0 → (q = false → s.v31Busy r = false) →
      s.reachAll .load .pub (linePieces ev.toNat nv) = .inl (.ok ps) →
      ∃ u : State, exec (.vld gd r b 4 t q o2) s = .next u ∧
        s.Issues u (.load (ps.map s.loadUnit) (vldDest r q) t) ev.toNat (sens ps) none .gl))

/-- ST and VST to the X and Y buffers (R24, R57, R90, R360, R384): aligned and inside the buffer, the store is held in the bundle, its bytes
in ascending order from the lowest; a scalar counts as raw, a vector carries its tag, and each its sensitivity.

A store of the closing bundle to X or Y, each in its canonical form (R57, R60, R90): its bytes are at its address, every other byte of X, Y and W is as before, and
each line it touches takes the higher sensitivity; a line covered whole takes the data's tag, another keeps its tag if it is equal and
becomes raw if not, and no other line's tags change.

ST and VST to S space and global memory (R36, R88, R111, R361): where the address is in the window, or every page is reached, GS has
room and the context would hold at most 192 lines, the bundle holds the stores of its bytes, one for each line of a global access, and no
byte of memory changes until they are published. -/
def Obligations.StoresRun : Prop :=
  (∀ (s : State) (gd : Guard) (r b : BitVec 5) (y : Bool) (z : BitVec 2) (o : BitVec 5) (o2 : BitVec 2) (t : BitVec 4),
    s.cur.guardTrue gd = true →
    let sp : BitVec 3 := if y then 1 else 0
    let len := if y then 131072 else 262144
    let n := 2 ^ z.toNat
    let ea := s.gw b + BitVec.ofNat 64 (o.toNat * n)
    let ev := s.gw b + BitVec.ofNat 64 (o2.toNat * 256)
    let holding (x : BufStore) : State := { s with issue := { s.issue with bufStores := s.issue.bufStores ++ [x] } }
    (ea.toNat + n ≤ len → ea.toNat % n = 0 →
      exec (.st gd r b sp z o) s = .next (holding ⟨false, y, ea.toNat, leBytes n (s.gw r).toNat, 0, s.gsens r⟩)) ∧
    (∀ x, s.readV r = some x → ev.toNat + 256 ≤ len → ev.toNat % 256 = 0 → t = 0 ∨ x.fmt = 0 ∨ x.fmt = t →
      exec (.vst gd r b sp t false o2) s =
        .next (holding ⟨s.v31Busy r, y, ev.toNat, leBytes 256 x.val.toNat, x.fmt, x.sens⟩)) ∧
    (let x := s.cur.readQ (r.setWidth 2)
     ev.toNat + 32 ≤ len → ev.toNat % 32 = 0 → t = 0 ∨ x.fmt = 0 ∨ x.fmt = t →
      exec (.vst gd r b sp t true o2) s = .next (holding ⟨false, y, ev.toNat, leBytes 32 x.val.toNat, x.fmt, x.sens⟩))) ∧
  (∀ (k : Core) (x : BufStore), (k.buf x.yspace).wf = true →
    let u := k.slotStore x
    let touched (l : Nat) : Prop := x.addr < l * 256 + 256 ∧ l * 256 < x.addr + x.bytes.length
    (∀ i, i < x.bytes.length → (u.buf x.yspace).byte (x.addr + i) = x.bytes.getD i 0) ∧
    (∀ a, a < x.addr ∨ x.addr + x.bytes.length ≤ a → (u.buf x.yspace).byte a = (k.buf x.yspace).byte a) ∧
    u.buf (!x.yspace) = k.buf (!x.yspace) ∧ u.bufTags (!x.yspace) = k.bufTags (!x.yspace) ∧ u.w = k.w ∧ u.ctxs = k.ctxs ∧
    (∀ l, x.bytes ≠ [] →
      let t := (k.bufTags x.yspace).get LineTag.reset l
      let v := (u.bufTags x.yspace).get LineTag.reset l
      (¬touched l → v = t) ∧
      (touched l → v.sens = t.sens.max x.sens ∧ v.layout = t.layout ∧
        v.fmt = if (x.addr ≤ l * 256 ∧ l * 256 + 256 ≤ x.addr + x.bytes.length) ∨ x.fmt = t.fmt then x.fmt else 0))) ∧
  (∀ (s : State) (gd : Guard) (r b : BitVec 5) (z : BitVec 2) (o : BitVec 5) (o2 : BitVec 2) (t : BitVec 4),
    s.cur.guardTrue gd = true → s.cur.counts.gs < 48 →
    let n := 2 ^ z.toNat
    let ea := s.gw b + BitVec.ofNat 64 (o.toNat * n)
    let ev := s.gw b + BitVec.ofNat 64 (o2.toNat * 256)
    let win := (s.window s.issue.core s.cur.part).2
    let inS (a k : Nat) : List (Place × Nat × Nat) := [(.s s.myCluster, s.phys a, k)]
    let fits (ps : List Piece) : Bool := s.linesFit (ps.map (fun p => (p.place, p.addr, p.len)))
    let cut (ps : List Piece) (bs : List Byte) (f : Tag) (x : Sens) : List (Place × Nat × List Byte × Tag × Sens) :=
      ps.map (fun p => (p.place, p.addr, (bs.drop p.off).take p.len, f, x))
    (let bs := leBytes n (s.gw r).toNat
     (ea.toNat + n ≤ win → ea.toNat % n = 0 → s.linesFit (inS ea.toNat n) = true →
      ∃ u : State, exec (.st gd r b 3 z o) s = .next u ∧
        s.HoldsStores u [(.s s.myCluster, s.phys ea.toNat, bs, 0, s.gsens r)]) ∧
     (∀ ps, ea.toNat < 2 ^ 56 → ea.toNat % n = 0 →
      s.reachAll .store (s.gsens r) (linePieces ea.toNat n) = .inl (.ok ps) → fits ps = true →
      ∃ u : State, exec (.st gd r b 4 z o) s = .next u ∧ s.HoldsStores u (cut ps bs 0 (s.gsens r)))) ∧
    (∀ x, s.readV r = some x → t = 0 ∨ x.fmt = 0 ∨ x.fmt = t →
     (let bs := leBytes 256 x.val.toNat
      (ev.toNat + 256 ≤ win → ev.toNat % 256 = 0 → s.linesFit (inS ev.toNat 256) = true →
       ∃ u : State, exec (.vst gd r b 3 t false o2) s = .next u ∧
         s.HoldsStores u [(.s s.myCluster, s.phys ev.toNat, bs, x.fmt, x.sens)]) ∧
      (∀ ps, ev.toNat < 2 ^ 56 → ev.toNat % 64 = 0 →
       s.reachAll .store x.sens (linePieces ev.toNat 256) = .inl (.ok ps) → fits ps = true →
       ∃ u : State, exec (.vst gd r b 4 t false o2) s = .next u ∧ s.HoldsStores u (cut ps bs x.fmt x.sens)))) ∧
    (let x := s.cur.readQ (r.setWidth 2)
     t = 0 ∨ x.fmt = 0 ∨ x.fmt = t →
     (let bs := leBytes 32 x.val.toNat
      (ev.toNat + 32 ≤ win → ev.toNat % 32 = 0 → s.linesFit (inS ev.toNat 32) = true →
       ∃ u : State, exec (.vst gd r b 3 t true o2) s = .next u ∧
         s.HoldsStores u [(.s s.myCluster, s.phys ev.toNat, bs, x.fmt, x.sens)]) ∧
      (∀ ps, ev.toNat < 2 ^ 56 → ev.toNat % 32 = 0 →
       s.reachAll .store x.sens (linePieces ev.toNat 32) = .inl (.ok ps) → fits ps = true →
       ∃ u : State, exec (.vst gd r b 4 t true o2) s = .next u ∧ s.HoldsStores u (cut ps bs x.fmt x.sens)))))

/-- The order of the address checks of an M-slot access (R88, R328, R380, R385): a space that is not there or bytes beyond the extent
raise protection, bits 63:56 of a global address raise translation, and then a misaligned address raises alignment, each with the effective
address: LD and ST, VLD and VST, where nothing that precedes these checks is met (R385 items 2 and 3). An element access raises the lowest
of the three that an active element meets, with the address of the first element that meets it; in space 2 or 5 it raises protection with
its first active element's address, and with 0 where none is active, which is the model's choice (log 63). A global access waits first
until its pages are held (R31). -/
def Obligations.AccessChecksTrap : Prop :=
  ∀ (s : State) (gd : Guard) (r b : BitVec 5) (c : BitVec 3), s.cur.guardTrue gd = true → s.cur.counts.gl < 48 → s.cur.counts.gs < 48 →
    c.toNat ≤ 5 →
    let far (a n : Nat) : Bool := (c = 0 && 262144 < a + n) || (c = 1 && 131072 < a + n) || c = 2 || c = 5 ||
      (c = 3 && (s.window s.issue.core s.cur.part).2 < a + n)
    let high (a : Nat) : Bool := c = 4 && 2 ^ 56 ≤ a
    let held (k : Access) (sens : Sens) (ps : List (Nat × Nat × Nat)) : Prop := c = 4 → ∀ ms, s.reachAll k sens ps ≠ .inr ms
    let checked (i : Instr) (ea : Word) (n align : Nat) : Prop :=
      (far ea.toNat n = true → exec i s = s.raise 0x06 ea) ∧ (high ea.toNat = true → exec i s = s.raise 0x10 ea) ∧
      (far ea.toNat n = false → high ea.toNat = false → ea.toNat % align ≠ 0 → exec i s = s.raise 0x07 ea)
    let first (i : Instr) (n : Nat) (es : List (Nat × Word)) : Prop :=
      (c = 2 ∨ c = 5 → exec i s = s.raise 0x06 ((es.head?.map Prod.snd).getD 0)) ∧
      (c ≠ 2 → c ≠ 5 →
        (∀ e, es.find? (fun e => far e.2.toNat n) = some e → exec i s = s.raise 0x06 e.2) ∧
        (∀ e, es.find? (fun e => far e.2.toNat n) = none → es.find? (fun e => high e.2.toNat) = some e →
          exec i s = s.raise 0x10 e.2) ∧
        (∀ e, es.find? (fun e => far e.2.toNat n) = none → es.find? (fun e => high e.2.toNat) = none →
          es.find? (fun e => e.2.toNat % n != 0) = some e → exec i s = s.raise 0x07 e.2))
    (∀ (z : BitVec 2) (o : BitVec 5),
      let n := 2 ^ z.toNat
      let ea := s.gw b + BitVec.ofNat 64 (o.toNat * n)
      (held .load .pub (linePieces ea.toNat n) → checked (.ld gd r b c z o) ea n n) ∧
      (held .store (s.gsens r) (linePieces ea.toNat n) → checked (.st gd r b c z o) ea n n)) ∧
    (∀ (t : BitVec 4) (q : Bool) (o : BitVec 2),
      let n := if q then 32 else 256
      let align := if q then 32 else if c = 4 then 64 else 256
      let ea := s.gw b + BitVec.ofNat 64 (o.toNat * 256)
      let fits (x : Tag) : Prop := t = 0 ∨ x = 0 ∨ x = t
      (q = true ∨ s.v31Busy r = false → held .load .pub (linePieces ea.toNat n) → checked (.vld gd r b c t q o) ea n align) ∧
      (∀ x, q = false → s.readV r = some x → fits x.fmt → held .store x.sens (linePieces ea.toNat n) →
        checked (.vst gd r b c t q o) ea n align) ∧
      (let x := s.cur.readQ (r.setWidth 2)
       q = true → fits x.fmt → held .store x.sens (linePieces ea.toNat n) → checked (.vst gd r b c t q o) ea n align)) ∧
    (∀ (t : BitVec 4),
      let n := tagBits t / 8
      let strided := s.elements t (2048 / tagBits t) (fun i => s.gw b + BitVec.ofNat 64 i * s.gw (b + 1))
      let indexed := s.elements t (min (2048 / tagBits t) 64)
        (fun i => s.gw b + BitVec.ofNat 64 ((s.vreg (r + 1)).lane 32 i * (tagBits t / 8)))
      let pages (es : List (Nat × Word)) : List (Nat × Nat × Nat) := es.map (fun e => (e.2.toNat, e.1, n))
      (s.v31Busy r = false → held .load .pub (pages strided) → first (.vlds gd r b c t) n strided) ∧
      (s.accepts [r + 1] [r] [s.vcheck (r + 1) 6 false] = true → held .load .pub (pages indexed) →
        first (.vgth gd r b c t) n indexed) ∧
      (s.accepts [r, r + 1] [] [s.vcheck (r + 1) 6 false, (decide ((s.vreg r).fmt = t ∨ (s.vreg r).fmt = 0), 0)] = true →
        held .store ((s.vreg r).sens.max (s.cur.readM 0).sens) (pages indexed) → first (.vsct gd r b c t) n indexed))

/-- VLDS and VGTH (R377 to R380): where GL has room, the checks of the active elements pass and every element is reached, one operation goes
in flight: in X and Y with its result, each active element at its place and zero elsewhere, and in S and global memory with the pieces it
will read. VLDS adds a stride, VGTH an n32 index in units of the element.

VSCT (R377 to R380): where its registers are accepted, GS has room, the checks of the active elements pass and every element is reached,
the elements of v(reg) are held in ascending order as stores of the bundle at the addresses that the indices of v(reg+1) give. -/
def Obligations.ElementAccessesIssue : Prop :=
  (∀ (s : State) (gd : Guard) (r b : BitVec 5) (t : BitVec 4) (y : Bool), s.cur.guardTrue gd = true → s.cur.counts.gl < 48 →
    typeIn 1 12 t = true → s.v31Busy r = false →
    let w := tagBits t
    let n := w / 8
    let m0 := (s.cur.readM 0).sens
    let k := s.core s.issue.core
    let es1 := s.elements t (2048 / w) (fun i => s.gw b + BitVec.ofNat 64 i * s.gw (b + 1))
    let es2 := s.elements t (min (2048 / w) 64)
      (fun i => s.gw b + BitVec.ofNat 64 ((s.vreg (r + 1)).lane 32 i * (w / 8)))
    let runs (es : List (Nat × Word)) (i : BitVec 3 → Instr) : Prop :=
      let va := (es.head?.map (fun e => e.2.toNat)).getD 0
      (s.checkElements (if y then 1 else 0) n es = none → (∀ e ∈ es, k.bufOk y e.2.toNat n = true) →
        ∃ u v sens, exec (i (if y then 1 else 0)) s = .next u ∧
          s.Issues u (.load [] (.v r) t) 0 sens (some ⟨[(.v r, v, t)], none, [], []⟩) .gl ∧
          (∀ j, j < 2048 / w → (⟨v, t, .pub⟩ : VReg).lane w j =
            ((es.find? (fun e => e.1 = j)).map (fun e => (k.buf y).num e.2.toNat n)).getD 0)) ∧
      (s.checkElements 3 n es = none → (∀ e ∈ es, s.rangeOk (.s s.myCluster) (s.phys e.2.toNat) n = true) →
        ∃ u sens, exec (i 3) s = .next u ∧
          s.Issues u (.load (es.map (fun e => s.loadUnit ⟨.s s.myCluster, s.phys e.2.toNat, e.2.toNat, noPage s.cur.part, e.1 * n, n⟩))
            (.v r) t) va sens none .gl) ∧
      (∀ ps, s.checkElements 4 n es = none → s.reachElements .load .pub n es = .inl (.ok ps) →
        ∃ u : State, exec (i 4) s = .next u ∧
          s.Issues u (.load (ps.map (fun p => s.loadUnit { p with off := p.off * n })) (.v r) t) va
            (ps.foldl (fun (acc : Sens) (p : Piece) => acc.max (s.pageSens p.place p.addr)) m0) none .gl)
    runs es1 (fun c => .vlds gd r b c t) ∧
    (s.accepts [r + 1] [r] [s.vcheck (r + 1) 6 false] = true → runs es2 (fun c => .vgth gd r b c t))) ∧
  (∀ (s : State) (gd : Guard) (r b : BitVec 5) (t : BitVec 4) (y : Bool), s.cur.guardTrue gd = true → s.cur.counts.gs < 48 →
    let x := s.vreg r
    s.accepts [r, r + 1] [] [s.vcheck (r + 1) 6 false, (decide (x.fmt = t ∨ x.fmt = 0), 0)] = true →
    let w := tagBits t
    let n := w / 8
    let es := s.elements t (min (2048 / w) 64)
      (fun i => s.gw b + BitVec.ofNat 64 ((s.vreg (r + 1)).lane 32 i * (w / 8)))
    let sens := x.sens.max (s.cur.readM 0).sens
    let data (i : Nat) : List Byte := leBytes n (x.lane w i)
    (s.checkElements (if y then 1 else 0) n es = none →
      exec (.vsct gd r b (if y then 1 else 0) t) s = .next { s with issue := { s.issue with
        bufStores := s.issue.bufStores ++ es.map (fun e => ⟨s.v31Busy r, y, e.2.toNat, data e.1, t, sens⟩) } }) ∧
    (s.checkElements 3 n es = none → s.linesFit (es.map (fun e => (.s s.myCluster, s.phys e.2.toNat, n))) = true →
      ∃ u : State, exec (.vsct gd r b 3 t) s = .next u ∧
        s.HoldsStores u (es.map (fun e => (.s s.myCluster, s.phys e.2.toNat, data e.1, t, sens)))) ∧
    (∀ ps, s.checkElements 4 n es = none → s.reachElements .store sens n es = .inl (.ok ps) →
      s.linesFit (ps.map (fun p => (p.place, p.addr, n))) = true →
      ∃ u : State, exec (.vsct gd r b 4 t) s = .next u ∧
        s.HoldsStores u (ps.map (fun p => (p.place, p.addr, data p.off, t, sens)))))

/-! ### Atomics, counters and fences -/

/-- AMO, CAS, CASL and RED issue (R36, R112, R125, R277, R296 to R299, R342): where the address passes its checks and reaches a home, the
operands are captured in one operation in flight that counts in GL, or in GS for RED. The context's held stores to the word's own bytes,
which the atomic follows, are sent under a publication at fabric scope first, and those to other bytes stay (R126); with rel or ar the
rest goes under one publication at the scope, which the operation waits for, or none where there is nothing to publish. No register and no
byte of memory changes.

What sending the stores to some bytes leaves: without such a store the machine is as it was, and with one the context holds none of its
stores to them and keeps every other whole, the publication holds the parts of them, and no byte changes. -/
def Obligations.AtomicsIssue : Prop :=
  (∀ (s : State) (gd : Guard) (r a : BitVec 5) (f : BitVec 4) (q c : BitVec 3) (o : BitVec 2) (z k : Bool) (p : Place)
    (ad va : Nat) (page : Miss), s.cur.guardTrue gd = true →
    let n := if z then 4 else 8
    let w := s.gw a
    let data := (s.gsens r).max (s.gsens (r + 1))
    let handle := s.gw (r + 2)
    let at' (acc : Access) (sens : Sens) (sOk : Bool) : Prop :=
      (s.atomAt w n sOk = .ok (.glob va) ∧ s.reach s.who s.cur.part acc sens va = .ok p ad page) ∨
      (s.atomAt w n sOk = .ok (.sp va) ∧ p = .s s.myCluster ∧ ad = s.phys va ∧
        (acc = .red ∨ s.rangeOk (.s s.myCluster) (s.phys va) n = true))
    let sens (x : Sens) : Sens := (s.pageSens p ad).max x
    let released (u : State) : Prop := ∃ op : VlOp, u.cur.ops = s.cur.ops ++ [op] ∧ op.ord = o ∧
      (s.releaseOwn s.who s.serial p ad n).Releases u (o.getLsbD 1) (Scope.ofCode c.toNat) op.pub
    (s.cur.counts.gl < 48 → at' .atomic (s.gsens r) true →
      ∃ u : State, exec (.amo gd r a f c o z) s = .next u ∧ released u ∧
        s.Issues u (.amo p ad (!z) f (s.gw r) (.g r)) va (sens (s.gsens r)) none .gl) ∧
    (s.cur.counts.gl < 48 → at' .atomic data true →
      ∃ u : State, exec (.cas gd r a q c o z) s = .next u ∧ released u ∧
        s.Issues u (.cas p ad (!z) (s.gw r) (s.gw (r + 1)) r q) va (sens data) none .gl) ∧
    (s.cur.counts.gl < 48 → at' .casl data false → bitsOf handle.toNat 21 11 = 0 → s.gsens (r + 2) = .pub →
      s.gsens (r + 3) ≠ .seal →
      ∃ u : State, exec (.casl gd r a q k c o z) s = .next u ∧ released u ∧
        s.Issues u (.casl p ad (!z) (s.gw r) (s.gw (r + 1)) handle (s.gw (r + 3)) k r q s.cur.kslot) va (sens data) none
          .gl) ∧
    (s.cur.counts.gs < 48 → at' .red (s.gsens r) true →
      ∃ u : State, exec (.red gd r a f c o z) s = .next u ∧ released u ∧
        s.Issues u (.red p ad (!z) f (s.gw r)) va (s.gsens r) none .gs)) ∧
  (∀ (s : State) (w : Who) (born : Nat) (p : Place) (a n : Nat), 0 < n →
    let mine (t : Store) : Prop := t.id < born ∧ t.place = p ∧ t.addr < a + n ∧ a < t.addr + t.bytes.length
    let u := s.releaseOwn w born p a n
    ((∀ t ∈ (s.ctx w).stores, ¬ mine t) → u = s) ∧
    (s.SameBytes u ∧ (s.ctx w).SameRegs (u.ctx w) ∧ (u.ctx w).counts = (s.ctx w).counts ∧ (∀ t ∈ (u.ctx w).stores, ¬ mine t) ∧
      (∀ t ∈ (s.ctx w).stores, ¬ mine t → t ∈ (u.ctx w).stores)) ∧
    ((∃ t ∈ (s.ctx w).stores, mine t) → ∃ q : Pub, u.pubs = s.pubs ++ [q] ∧ q.who = w ∧ q.scope = .fabric ∧ q.fence = false ∧
      (∀ x ∈ q.stores, ∃ t ∈ (s.ctx w).stores, mine t ∧ x.id = t.id ∧ a ≤ x.addr ∧ x.addr + x.bytes.length ≤ a + n) ∧
      ∀ t ∈ (s.ctx w).stores, mine t → ∀ i, a ≤ i → i < a + n → t.addr ≤ i → i < t.addr + t.bytes.length →
        ∃ x ∈ q.stores, x.id = t.id ∧ x.addr ≤ i ∧ x.bytes[i - x.addr]? = t.bytes[i - t.addr]?))

/-- CADV, CREAD and CWAIT (R112, R118, R119, R303): where the handle passes its checks, CADV puts one advance by the register's value on its
way to the counter, counts in GS and is a release: the stores the context holds go under one publication at the scope, which the advance
waits for; CREAD puts a read in flight; CWAIT issues as an acquire where the counter is at or above the target, or a wake has satisfied it,
and blocks otherwise. An advance or target register above PUB raises a sensitivity trap, CWAIT's where it would not block (R31).

The handle checks of R118 refuse, in their order: a handle with a kind of 3, a reserved bit set, or a die that is not fused on raises
illegal operand; a Cistern index outside the partition's quota and an S word beyond the window raise protection, with the handle in
TRAPVAL. -/
def Obligations.CountersRun : Prop :=
  (∀ (s : State) (gd : Guard) (r a : BitVec 5) (c : BitVec 3) (o : BitVec 2) (key : CtrKey), s.cur.guardTrue gd = true →
    let h := s.gw a
    let check (write : Bool) : HandleCheck := s.checkHandle s.who s.cur.part s.cur.hashKey write h
    (s.cur.counts.gs < 48 → check true = .ok key → s.gsens r = .pub →
      ∃ (u : State) (adv : Advance), exec (.cadv gd r a c o) s = .next u ∧ u.advances = s.advances ++ [adv] ∧ adv.key = key ∧ adv.handle = h ∧
        adv.amount = (s.gw r).toNat ∧ adv.who = some s.who ∧ s.Releases u true (Scope.ofCode c.toNat) adv.pub ∧ u.cur.counts.gs = s.cur.counts.gs + 1 ∧
        s.cur.SameRegs u.cur ∧ s.SameBytes u ∧ (∀ k, u.ctrValue k = s.ctrValue k)) ∧
    (s.cur.counts.gl < 48 → check false = .ok key → s.wordOk key = true →
      ∃ u : State, exec (.cread gd r a c o) s = .next u ∧ s.Issues u (.cread key (.g r)) h.toNat .pub none .gl) ∧
    (check false = .ok key → (s.gw r).toNat ≤ s.ctrValue key ∨ s.cur.woken = some (h, (s.gw r).toNat) →
      (s.gsens r ≠ .pub → exec (.cwait gd r a c o) s = s.raise 0x05 (r.setWidth 64)) ∧
      (s.gsens r = .pub → ∃ u : State, exec (.cwait gd r a c o) s = .next u ∧ s.cur.SameRegs u.cur ∧ s.SameBytes u ∧
        u.cur.phase = s.cur.phase + 1 ∧ u.cur.counts = s.cur.counts ∧ u.cur.stores = s.cur.stores ∧ u.pubs = s.pubs ∧
        u.cur.woken = none ∧ ∀ i ∈ s.cur.vis, i ∈ u.cur.vis)) ∧
    (check false = .ok key → s.ctrValue key < (s.gw r).toNat →
      s.cur.woken ≠ some (h, (s.gw r).toNat) →
      exec (.cwait gd r a c o) s = s.blockOn (.cwait key h (s.gw r).toNat)) ∧
    (s.cur.counts.gs < 48 → check true = .ok key → s.gsens r ≠ .pub →
      exec (.cadv gd r a c o) s = s.raise 0x05 (r.setWidth 64))) ∧
  (∀ (s : State) (gd : Guard) (r a : BitVec 5) (c : BitVec 3) (o : BitVec 2), s.cur.guardTrue gd = true →
    s.cur.counts.gs < 48 → s.cur.counts.gl < 48 →
    let h := s.gw a
    let n := h.toNat
    let kind := bitsOf n 62 2
    let all (k : BitVec 8) : Prop := exec (.cadv gd r a c o) s = s.raise k h ∧ exec (.cread gd r a c o) s = s.raise k h ∧
      exec (.cwait gd r a c o) s = s.raise k h
    (kind = 3 → all 0x08) ∧
    (kind = 0 → bitsOf n 32 30 ≠ 0 ∨ bitsOf n 16 14 ≠ 0 ∨ s.diePresent (bitsOf n 30 2) = false → all 0x08) ∧
    (kind = 0 → bitsOf n 32 30 = 0 → bitsOf n 16 14 = 0 → s.diePresent (bitsOf n 30 2) = true →
      s.inQuota s.cur.part (bitsOf n 30 2) (bitsOf n 0 16) = false → all 0x06) ∧
    (kind = 1 → bitsOf n 22 40 ≠ 0 ∨ n % 8 ≠ 0 → all 0x08) ∧
    (kind = 1 → bitsOf n 22 40 = 0 → n % 8 = 0 → (s.window s.issue.core s.cur.part).2 < bitsOf n 0 22 + 8 → all 0x06) ∧
    (kind = 2 → bitsOf n 56 6 ≠ 0 ∨ n % 8 ≠ 0 → all 0x08))

/-- FENCE (R112, R114, R321). With rel and room in GS, every store the context holds goes under one publication at the scope, counted in
GS; with none held and no earlier publication of the context it publishes nothing and counts nothing. With acq a new phase begins and
what was visible stays so. No register and no byte changes. -/
def Obligations.FenceRuns : Prop :=
  ∀ (s : State) (gd : Guard) (c : BitVec 3) (o : BitVec 2), s.cur.guardTrue gd = true → o ≠ 0 →
    (o.getLsbD 1 = true → s.cur.counts.gs < 48) →
    let quiet : Bool := s.cur.stores.isEmpty && !s.pubs.any (fun p => p.who = s.who)
    ∃ u : State, exec (.fence gd c o) s = .next u ∧ s.cur.SameRegs u.cur ∧ s.SameBytes u ∧
      u.cur.phase = (if o.getLsbD 0 then s.cur.phase + 1 else s.cur.phase) ∧ (∀ i ∈ s.cur.vis, i ∈ u.cur.vis) ∧
      u.cur.counts.gs = (if o.getLsbD 1 && !quiet then s.cur.counts.gs + 1 else s.cur.counts.gs) ∧
      (o.getLsbD 1 = true → u.cur.stores = []) ∧ (o.getLsbD 1 = false → u.cur.stores = s.cur.stores ∧ u.pubs = s.pubs) ∧
      (o.getLsbD 1 = true → quiet = true → u.pubs = s.pubs) ∧
      (o.getLsbD 1 = true → quiet = false →
        ∃ p : Pub, u.pubs = s.pubs ++ [p] ∧ p.who = s.who ∧ p.scope = Scope.ofCode c.toNat ∧ p.stores = s.cur.stores ∧
          p.fence = true)

/-- PROBE on a well-formed descriptor whose table and data lie in the window, a block address that is reached and tag lines that have not
failed (R104, R105, R341). A matching entry whose fill is complete is a hit: one operation, its slot with predicate 1, where GL has room for
one. A matching entry whose fill is pending: predicate 0, and a second count in GL until the fill is complete. With no match and a free entry
among the eight, the entry is claimed with V and F set, no other byte changes, and a fill begins. With neither, cause 0x14 is raised with the
block address. A descriptor that is not well-formed, one beyond the window, and a high block address raise 0x08, 0x06 and 0x10, in that order,
with the block address, once the block's page is held (R31); a miss that GL has no room for blocks. -/
def Obligations.ProbeRuns : Prop :=
  ∀ (s : State) (gd : Guard) (a b c : BitVec 5) (q : BitVec 3) (p : Piece), s.MemOk → s.cur.guardTrue gd = true →
    s.cur.counts.gl < 48 →
    let room : Prop := s.cur.counts.gl < 47
    let dsc := (s.gw c).toNat
    let va := (s.gw b).toNat
    let table := bitsOf dsc 0 22
    let data := bitsOf dsc 32 22
    let ext := (s.window s.issue.core s.cur.part).2
    let es := s.probeEntries table (va / 256)
    let found (e : Nat × Nat) : Bool := bitsOf e.2 63 1 = 1 && bitsOf e.2 0 48 = va / 256 && bitsOf e.2 48 14 = 0
    let free (e : Nat × Nat) : Bool := bitsOf e.2 63 1 = 0
    let row (e : Nat × Nat) : LineTag := s.sTag s.who s.myCluster (s.phys (table + 8 * e.1))
    let back (slot : Nat) (hit : Bool) : OpResult :=
      ⟨[(.g a, BitVec.ofNat 2048 slot, 0), (.p q, BitVec.ofNat 2048 hit.toNat, 0)], none, [], []⟩
    let formed : Prop := bitsOf table 0 13 = 0 ∧ bitsOf dsc 22 10 = 0 ∧ bitsOf data 0 8 = 0 ∧ bitsOf dsc 54 10 = 0
    let within : Prop := table + 8192 ≤ ext ∧ data + 262144 ≤ ext
    let raises (k : BitVec 8) : Prop := exec (.probe gd a b c q) s = s.raise k (s.gw b)
    let others (u : State) : Prop := ∀ w : Who, ¬(w.core = s.issue.core ∧ w.ctx % 4 = s.issue.ctx % 4) → u.ctx w = s.ctx w
    let held : Prop := ∀ ms, s.reachAll .load .pub [(va / 256 * 256, 0, 256)] ≠ .inr ms
    (va < 2 ^ 56 → held) →
    (¬formed → raises 0x08) ∧ (formed → ¬within → raises 0x06) ∧ (formed → within → 2 ^ 56 ≤ va → raises 0x10) ∧
    (formed → within → va < 2 ^ 56 → s.reachAll .load .pub [(va / 256 * 256, 0, 256)] = .inl (.ok [p]) →
    (∀ e ∈ es, s.rangeOk (.s s.myCluster) (s.phys (table + 8 * e.1)) 8 = true) →
    (∀ e, es.find? found = some e → bitsOf e.2 62 1 = 0 →
      ∃ u : State, exec (.probe gd a b c q) s = .next u ∧
        s.Issues u (.probe a q e.1 true) va (row e).sens (some (back e.1 true)) .gl) ∧
    (∀ e, es.find? found = some e → bitsOf e.2 62 1 = 1 → room →
      ∃ (u : State) (o1 o2 : VlOp), exec (.probe gd a b c q) s = .next u ∧ u.cur.ops = s.cur.ops ++ [o1, o2] ∧ o1.kind = .probe a q e.1 false ∧
        o1.result = some (back e.1 false) ∧ o2.kind = .fillWait s.myCluster (s.phys (table + 8 * e.1)) e.1 ∧
        o2.result = none ∧ u.cur.counts.gl = s.cur.counts.gl + 2 ∧ u.fills = s.fills ∧ s.cur.SameRegs u.cur ∧
        s.SameBytes u ∧ others u) ∧
    (∀ e, es.find? found = none → es.find? free = some e → room →
      ∃ (u : State) (o1 o2 : VlOp) (f : Fill), exec (.probe gd a b c q) s = .next u ∧ u.cur.ops = s.cur.ops ++ [o1, o2] ∧
        o1.kind = .probe a q e.1 false ∧ o1.result = some (back e.1 false) ∧
        o2.kind = .fillWait s.myCluster (s.phys (table + 8 * e.1)) e.1 ∧ u.cur.counts.gl = s.cur.counts.gl + 2 ∧
        u.fills = s.fills ++ [f] ∧ f.blk = va / 256 ∧ f.place = p.place ∧ f.addr = p.addr ∧
        f.table = s.phys (table + 8 * e.1) ∧ f.data = s.phys (data + 256 * e.1) ∧
        u.tagEntry table e.1 = 3 * 2 ^ 62 + va / 256 ∧ s.cur.SameRegs u.cur ∧ others u ∧
        (∀ x i, x ≠ .s s.myCluster ∨ i < s.phys (table + 8 * e.1) ∨ s.phys (table + 8 * e.1) + 8 ≤ i →
          u.homeByte x i = s.homeByte x i)) ∧
    (es.find? found = none → es.find? free = none → room → exec (.probe gd a b c q) s =
      (s.perfWho s.who 18 (s.probeLines s.who (va / 256) table).length).raise 0x14 (s.gw b)) ∧
    ((∀ e, es.find? found = some e → bitsOf e.2 62 1 = 1) → ¬room →
      exec (.probe gd a b c q) s =
        (s.perfWho s.who 18 (s.probeLines s.who (va / 256) table).length).blockOn (.cap .gl 2)))

/-! ### Vector syllables -/

/-- What a vector result puts in the latch file, element by element (R366): element i is the new one where Z = 0 or the mask bit of its
lowest byte is 1, else the old one, in types narrower than a byte too, where a mask bit governs its whole byte; the tag is the type, and the flags are those of active elements
alone. -/
def Obligations.VectorResultsMerge : Prop :=
  ∀ (s : State) (l : Nat) (t : Tag) (d : BitVec 5) (z : Bool) (sens : Sens) (rs : List (Nat × BitVec 7)),
    rs.length = 2048 / opBits t → (∀ x ∈ rs, x.1 < 2 ^ opBits t) →
    let w := opBits t
    let on (i : Nat) : Bool := !z || (s.cur.readM 0).val.getLsbD (w * i / 8)
    ∃ v fl, s.vput l t d z sens rs = s.pushV l d v t sens fl ∧
      (∀ i, i < 2048 / w → v.toNat / 2 ^ (w * i) % 2 ^ w =
        if on i then (rs.getD i (0, 0)).1 else (s.vreg d).val.toNat / 2 ^ (w * i) % 2 ^ w) ∧
      (∀ b, fl.getLsbD b = true ↔ ∃ i, i < rs.length ∧ on i = true ∧ (rs.getD i (0, 0)).2.getLsbD b = true)

/-- The integer syllables of the V class (R64, R366, R367, R386, R387): for every integer type, on registers that are accepted, each
element is the exact result reduced to the element's width, at L = 2, or 3 for the multiplies; no flag. A shift takes b modulo the width;
VRSHR rounds halves toward plus infinity; VMAD adds the old d.

VAND, VOR and VXOR for every type (R366, R367, R387): bit by bit, raw sources accepted. -/
def Obligations.VectorIntegerOperations : Prop :=
  (∀ (s : State) (gd : Guard) (t : BitVec 4) (d a b : BitVec 5) (z : Bool), s.cur.guardTrue gd = true →
    typeIn 1 7 t = true →
    let w := tagBits t
    let x (i : Nat) : Int := readInt t ((s.vreg a).lane w i)
    let y (i : Nat) : Int := readInt t ((s.vreg b).lane w i)
    let n (i : Nat) : Nat := (s.vreg b).lane w i % w
    let put (l : Nat) (srcs : List (BitVec 5)) (f : Nat → Int) : Out :=
      .next (s.vput l t d z (s.vsens (laneReads srcs d z) z .pub) (lanesOf t (fun i => wrapInt w (f i))))
    (s.lanesOk t [a, b] d z false = true →
      exec (.vadd gd t d a b z) s = put 2 [a, b] (fun i => x i + y i) ∧
      exec (.vsub gd t d a b z) s = put 2 [a, b] (fun i => x i - y i) ∧
      exec (.vmin gd t d a b z) s = put 2 [a, b] (fun i => if x i ≤ y i then x i else y i) ∧
      exec (.vmax gd t d a b z) s = put 2 [a, b] (fun i => if y i ≤ x i then x i else y i) ∧
      exec (.vmul gd t d a b z) s = put 3 [a, b] (fun i => x i * y i) ∧
      exec (.vmulh gd t d a b z) s = put 3 [a, b] (fun i => x i * y i / (2 ^ w : Nat)) ∧
      exec (.vshl gd t d a b z) s = put 2 [a, b] (fun i => x i * (2 ^ n i : Nat)) ∧
      exec (.vshr gd t d a b z) s = put 2 [a, b] (fun i => x i / (2 ^ n i : Nat)) ∧
      exec (.vrshr gd t d a b z) s =
        put 2 [a, b] (fun i => if n i = 0 then x i else (x i + (2 ^ (n i - 1) : Nat)) / (2 ^ n i : Nat))) ∧
    (s.lanesOk t [a, b, d] d z false = true →
      exec (.vmad gd t d a b z) s =
        put 3 [a, b, d] (fun i => x i * y i + readInt t ((s.vreg d).lane w i))) ∧
    (s.lanesOk t [a] d z false = true → exec (.vabs gd t d a z) s = put 2 [a] (fun i => ((x i).natAbs : Int)))) ∧
  (∀ (s : State) (gd : Guard) (t : BitVec 4) (d a b : BitVec 5) (z : Bool), s.cur.guardTrue gd = true →
    s.lanesOk t [a, b] d z true = true →
    let w := opBits t
    let x (i : Nat) : Nat := (s.vreg a).lane w i
    let y (i : Nat) : Nat := (s.vreg b).lane w i
    let put (f : Nat → Nat) : Out := .next (s.vput 2 t d z (s.vsens (laneReads [a, b] d z) z .pub) (lanesOf t f))
    exec (.vand gd t d a b z) s = put (fun i => x i &&& y i) ∧
    exec (.vor gd t d a b z) s = put (fun i => x i ||| y i) ∧
    exec (.vxor gd t d a b z) s = put (fun i => x i ^^^ y i))

/-- Rounding (R68, R69, R71), for each format, mode and saturate bit and every positive magnitude x = num / den: where x does not overflow
the result is, with its sign, the finite value that the mode names (nearest, of two the one whose lowest fraction bit is 0; the largest not
above x; the smallest not below x); NX says that it differs from x, and UF that it is tiny too. An overflow gives the largest finite value,
an infinity or e4m3's NaN by R69's table, with OF and NX, and SAT where the bit saturates. Sums and fused products of finite values round
their exact result so (R72, R80).

One conversion of VCVT (R70, R370): NaN, infinities, signed zeros, exact and rounded float to float, integer to float, float to integer by
the mode with its bounds, and integer to integer, with their flags. -/
def Obligations.RoundingAndConversion : Prop :=
  let mag (f : FFmt) (w : Nat) : ℚ := match f.read w with
    | .fin _ m e => m * 2 ^ e
    | _ => 0
  let sgn (n : Bool) : ℚ := if n then -1 else 1
  let finite (f : FFmt) (w : Nat) : Prop := w < 2 ^ (f.ebits + f.fbits) ∧ ∃ m e, f.read w = .fin false m e
  (∀ f ∈ [f32Fmt, bf16Fmt, f16Fmt, e4m3Fmt, e5m2Fmt], ∀ (rm num den : Nat) (sat neg : Bool), rm < 4 → 0 < num → 0 < den →
    let x : ℚ := num / den
    let down : Prop := rm = 1 ∨ (rm = 2 ∧ neg = false) ∨ (rm = 3 ∧ neg = true)
    let top : ℚ := mag f (f.maxFin false)
    let ulp : ℚ := 2 ^ ((2 : Int) ^ f.ebits - (if f.hasInf then 2 else 1) - f.bias - f.fbits)
    let normal : ℚ := 2 ^ ((1 : Int) - f.bias)
    let fine : ℚ := 2 ^ (-(f.bias : Int) - f.fbits)
    let beyond : Prop := (rm = 0 → if f.hasInf then top + ulp / 2 ≤ x else top + ulp / 2 < x) ∧
      (down → top + ulp ≤ x) ∧ (rm ≠ 0 → ¬down → top < x)
    let tiny : Prop := (rm = 0 → x < normal - fine / 2) ∧ (down → x < normal) ∧ (rm ≠ 0 → ¬down → x ≤ normal - fine)
    let out := f.round rm sat neg num den
    (¬beyond → ∃ r, finite f r ∧ out.1 = f.signBit neg + r ∧
      (rm = 0 → ∀ w, finite f w → |mag f r - x| ≤ |mag f w - x| ∧
        (|mag f w - x| = |mag f r - x| → w ≠ r → r % 2 = 0)) ∧
      (down → mag f r ≤ x ∧ ∀ w, finite f w → mag f w ≤ x → mag f w ≤ mag f r) ∧
      (rm ≠ 0 → ¬down → x ≤ mag f r ∧ ∀ w, finite f w → x ≤ mag f w → mag f r ≤ mag f w) ∧
      (mag f r = x → out.2 = 0) ∧ (mag f r ≠ x → tiny → out.2 = flNX ||| flUF) ∧ (mag f r ≠ x → ¬tiny → out.2 = flNX)) ∧
    (beyond → (sat = true → out = (f.maxFin neg, flOF ||| flNX ||| flSAT)) ∧
      (sat = false → down → out = (f.maxFin neg, flOF ||| flNX)) ∧
      (sat = false → ¬down → out = (if f.hasInf then f.inf neg else f.nan, flOF ||| flNX)))) ∧
  (∀ (f : FFmt) (rm a b c : Nat) (na nb nc : Bool) (ma mb mc : Nat) (ea eb ec : Int), f.read a = .fin na ma ea →
    f.read b = .fin nb mb eb → f.read c = .fin nc mc ec →
    let x : ℚ := sgn na * (ma * 2 ^ ea)
    let y : ℚ := sgn nb * (mb * 2 ^ eb)
    let z : ℚ := sgn nc * (mc * 2 ^ ec)
    let rounds (out : Nat × BitVec 7) (v : ℚ) : Prop := v ≠ 0 → ∃ num den : Nat, 0 < num ∧ 0 < den ∧ (num : ℚ) / den = |v| ∧
      out = f.round rm false (decide (v < 0)) num den
    rounds (f.add rm a b) (x + y) ∧ rounds (f.mulR rm a b) (x * y) ∧ rounds (f.fma rm a b c) (x * y + z)) ∧
  (∀ (src dst : Tag) (rm : Nat) (sat : Bool) (w : Nat), rm < 4 →
    let out := cvtElem dst src rm sat w
    let exact : Bool := dst = src || ((src = 11 || src = 12) && (dst = 8 || dst = 9 || dst = 10)) || ((src = 8 || src = 9) && dst = 10)
    let bits := tagBits dst
    let lo : Int := if tagSigned dst then -(2 ^ (bits - 1)) else 0
    let hi : Int := if tagSigned dst then 2 ^ (bits - 1) - 1 else 2 ^ bits - 1
    let num (m : Nat) (e : Int) : Nat := if 0 ≤ e then m * 2 ^ e.toNat else m
    let den (e : Int) : Nat := if 0 ≤ e then 1 else 2 ^ (-e).toNat
    (∀ f g, ffmt src = some f → ffmt dst = some g →
      (f.read w = .nan → out = (g.nan, 0)) ∧
      (∀ n, f.read w = .inf n → out =
        if exact then (g.inf n, 0) else if sat then (g.maxFin n, flSAT) else if g.hasInf then (g.inf n, 0) else (g.nan, flIV)) ∧
      (∀ n e, f.read w = .fin n 0 e → out = (g.signBit n, 0)) ∧
      (∀ n m e, f.read w = .fin n m e → m ≠ 0 → exact = false → out = g.round rm sat n (num m e) (den e)) ∧
      (∀ n m e, f.read w = .fin n m e → m ≠ 0 → exact = true →
        out.2 = 0 ∧ ∃ m' e', g.read out.1 = .fin n m' e' ∧ (m' : ℚ) * 2 ^ e' = m * 2 ^ e)) ∧
    (∀ g, typeIn 1 7 src = true → ffmt dst = some g →
      let i := readInt src w
      out = if i = 0 then (0, 0) else g.round rm sat (decide (i < 0)) i.natAbs 1) ∧
    (∀ f, ffmt src = some f → typeIn 1 7 dst = true →
      (f.read w = .nan → out = (0, flIV)) ∧
      (∀ n, f.read w = .inf n → out = (wrapInt bits (if n then lo else hi), flIV)) ∧
      (∀ n m e, f.read w = .fin n m e →
        let v : ℚ := sgn n * (m * 2 ^ e)
        let near : Int := if v - ⌊v⌋ < 1 / 2 then ⌊v⌋ else if 1 / 2 < v - ⌊v⌋ then ⌊v⌋ + 1
          else if ⌊v⌋ % 2 = 0 then ⌊v⌋ else ⌊v⌋ + 1
        let i : Int := if rm = 0 then near else if rm = 1 then (if v < 0 then ⌈v⌉ else ⌊v⌋) else if rm = 2 then ⌊v⌋ else ⌈v⌉
        out = (if i < lo then (wrapInt bits lo, flIV) else if hi < i then (wrapInt bits hi, flIV)
          else (wrapInt bits i, if (i : ℚ) = v then 0 else flNX)))) ∧
    (typeIn 1 7 src = true → typeIn 1 7 dst = true →
      let i := readInt src w
      out = if bits ≤ tagBits src ∧ sat = true ∧ i < lo then (wrapInt bits lo, flSAT)
        else if bits ≤ tagBits src ∧ sat = true ∧ hi < i then (wrapInt bits hi, flSAT) else (wrapInt bits i, 0)))

/-- VFADD, VFSUB, VFMUL, VFMA, VFMIN, VFMAX and VCLAMP (R72, R80, R372, R374, R375): on accepted registers of a floating-point type each
element is the rounded result of its format under FRM with its flags, at L = 4; VCLAMP limits each element of a by b and b+1, at L = 2 for
integers.

VDOT and VFDOT (R79, R80): each s32 element of d takes the sum of d and four exact products of s8 lanes, saturated where FRM says so
with SAT and else wrapped; each f32 element takes d plus two exact products of bf16 lanes, rounded once. -/
def Obligations.VectorFloatOperations : Prop :=
  (∀ (s : State) (gd : Guard) (t : BitVec 4) (d a b : BitVec 5) (z : Bool) (k : FFmt), s.cur.guardTrue gd = true →
    let w := tagBits t
    let e (r : BitVec 5) (i : Nat) : Nat := (s.vreg r).lane w i
    let rm := s.cur.frm.toNat % 4
    let put (l : Nat) (srcs : List (BitVec 5)) (f : Nat → Nat × BitVec 7) : Out :=
      .next (s.vput l t d z (s.vsens (laneReads srcs d z) z .pub) ((List.range (2048 / opBits t)).map f))
    (typeIn 8 10 t = true → ffmt t = some k → s.lanesOk t [a, b] d z false = true →
      exec (.vfadd gd t d a b z) s = put 4 [a, b] (fun i => k.add rm (e a i) (e b i)) ∧
      exec (.vfsub gd t d a b z) s = put 4 [a, b] (fun i => k.sub rm (e a i) (e b i)) ∧
      exec (.vfmul gd t d a b z) s = put 4 [a, b] (fun i => k.mulR rm (e a i) (e b i)) ∧
      exec (.vfmin gd t d a b z) s = put 4 [a, b] (fun i => (k.minmax false (e a i) (e b i), 0)) ∧
      exec (.vfmax gd t d a b z) s = put 4 [a, b] (fun i => (k.minmax true (e a i) (e b i), 0))) ∧
    (typeIn 8 10 t = true → ffmt t = some k → s.lanesOk t [a, b, d] d z false = true →
      exec (.vfma gd t d a b z) s = put 4 [a, b, d] (fun i => k.fma rm (e a i) (e b i) (e d i))) ∧
    (typeIn 1 10 t = true → s.lanesOk t [a, b, b + 1] d z false = true →
      exec (.vclamp gd t d a b z) s = put (if t.toNat ≤ 7 then 2 else 4) [a, b, b + 1]
        (fun i => (clampElem t (e a i) (e b i) (e (b + 1) i), 0)))) ∧
  (∀ (s : State) (gd : Guard) (d a b : BitVec 5) (z : Bool), s.cur.guardTrue gd = true →
    let sens := s.vsens [a, b, d] z .pub
    (s.accepts [a, b, d] [d] [s.vcheck a 1 false, s.vcheck b 1 false, s.vcheck d 5 false] = true →
      let prod (i j : Nat) : Int := readInt 1 ((s.vreg a).lane 8 (4 * i + j)) * readInt 1 ((s.vreg b).lane 8 (4 * i + j))
      let sum (i : Nat) : Int := readInt 5 ((s.vreg d).lane 32 i) + prod i 0 + prod i 1 + prod i 2 + prod i 3
      let lim (i : Nat) : Int := if s.cur.frm.getLsbD 2 then max (-2147483648) (min 2147483647 (sum i)) else sum i
      exec (.vdot gd d a b z) s = .next (s.vput 4 5 d z sens ((List.range 64).map (fun i =>
        (wrapInt 32 (lim i), if lim i = sum i then 0 else flSAT))))) ∧
    (s.accepts [a, b, d] [d] [s.vcheck a 8 false, s.vcheck b 8 false, s.vcheck d 10 false] = true →
      let prod (i j : Nat) : Term :=
        (bf16Fmt.read ((s.vreg a).lane 16 (2 * i + j))).mul (bf16Fmt.read ((s.vreg b).lane 16 (2 * i + j)))
      exec (.vfdot gd d a b z) s = .next (s.vput 4 10 d z sens ((List.range 64).map (fun i =>
        f32Fmt.sum (s.cur.frm.toNat % 4) [prod i 0, prod i 1, (f32Fmt.read ((s.vreg d).lane 32 i)).term])))))

/-- The moves between files and the conversions (R368 to R371, R381, R390): VBCAST, VEXT, VINS, VCVT, VCAST, VCBX, and VPK5 and VUPK5 on
data that is all trits.

VCMP and VFCMP write every mask bit of an element's bytes (R373): mask bit j is the comparison of the elements that hold byte j where
they are active, else the old bit; the six conditions, a NaN making every one false but ne. -/
def Obligations.VectorMovesAndComparisons : Prop :=
  (∀ (s : State) (gd : Guard) (t e : BitVec 4) (d a b : BitVec 5) (k : BitVec 3) (h q : BitVec 2) (z : Bool),
    s.cur.guardTrue gd = true →
    let w := tagBits t
    let old (x : List (BitVec 5)) : List (BitVec 5) := if z then x ++ [d] else x
    let dTag (u : Tag) : List (Bool × Word) := if z then [s.vcheck d u false] else []
    (typeIn 1 14 t = true → s.accepts (old []) [d] (dTag t) = true →
      exec (.vbcast gd t d a z) s = .next (s.vput 2 t d z (s.vsens (old []) z (s.gsens a))
        (List.replicate (2048 / opBits t) ((s.gw a).toNat % 2 ^ opBits t, 0)))) ∧
    (s.accepts [a] [] [s.vcheck a t false] = true →
      exec (.vext gd t d a b) s = .next (s.pushG 2 d
        (BitVec.ofNat 64 ((s.vreg a).lane w ((s.gw b).toNat % (2048 / w)))) ((s.vreg a).sens.max (s.gsens b)))) ∧
    (typeIn 1 12 t = true → s.accepts [d] [d] [s.vcheck d t true] = true →
      ∃ v, exec (.vins gd t d a b) s =
          .next (s.pushV 2 d v t (((s.vreg d).sens.max (s.gsens a)).max (s.gsens b)) 0) ∧
        ∀ i, i < 2048 / w → (⟨v, t, .pub⟩ : VReg).lane w i =
          if i = (s.gw b).toNat % (2048 / w) then (s.gw a).toNat % 2 ^ w else (s.vreg d).lane w i) ∧
    (s.accepts (old [a]) [d] (s.vcheck a e false :: dTag t) = true →
      exec (.vcvt gd t d a e z) s = .next (s.vput 3 t d z (s.vsens (old [a]) z .pub)
        ((List.range (2048 / w)).map (fun i => if i < 2048 / tagBits e then
          cvtElem t e (s.cur.frm.toNat % 4) (s.cur.frm.getLsbD 2) ((s.vreg a).lane (tagBits e) i) else (0, 0))))) ∧
    (s.accepts [a] [d] [] = true →
      exec (.vcast gd t d a) s = .next (s.pushV 3 d (s.vreg a).val t (s.vreg a).sens 0)) ∧
    (s.accepts (old [a]) [d] ([s.vcheck a 14 false, (decide ((s.cur.readQ q).fmt = 8), 0)] ++ dTag 8) = true →
      exec (.vcbx gd d a h q z) s = .next (s.vput 3 8 d z (s.vsens (old [a]) z (s.cur.readQ q).sens)
        ((List.range 128).map (fun i => ((s.cur.readQ q).val.toNat /
          2 ^ (16 * (s.vreg a).lane 4 (128 * h.toNat + i)) % 65536, 0))))) ∧
    (k.toNat < 5 → s.accepts [a, d] [d] [s.vcheck a 1 false, s.vcheck d 15 false] = true →
      (∀ i, i < 240 → (s.vreg a).lane 8 i ∈ [0, 1, 255]) →
      let dg (j i : Nat) : Nat := digitOf ((s.vreg a).lane 8 (5 * j + i))
      ∃ v, exec (.vpk5 gd d a k) s = .next (s.pushV 3 d v 15 ((s.vreg a).sens.max (s.vreg d).sens) 0) ∧
        ∀ i, i < 256 → (⟨v, 15, .pub⟩ : VReg).lane 8 i =
          if 48 * k.toNat ≤ i ∧ i < 48 * k.toNat + 48 then
            let j := i - 48 * k.toNat
            dg j 0 + 3 * dg j 1 + 9 * dg j 2 + 27 * dg j 3 + 81 * dg j 4
          else (s.vreg d).lane 8 i) ∧
    (k.toNat < 5 → s.accepts [a] [d] [s.vcheck a 15 false] = true →
      (∀ i, i < 48 → (s.vreg a).lane 8 (48 * k.toNat + i) < 243) →
      ∃ v, exec (.vupk5 gd d a k) s = .next (s.pushV 3 d v 1 (s.vreg a).sens 0) ∧
        ∀ i, i < 256 → (⟨v, 1, .pub⟩ : VReg).lane 8 i =
          if i < 240 then
            let digit := (s.vreg a).lane 8 (48 * k.toNat + i / 5) / 3 ^ (i % 5) % 3
            if digit = 2 then 255 else digit
          else 0)) ∧
  (∀ (s : State) (gd : Guard) (t : BitVec 4) (m : BitVec 3) (a b : BitVec 5) (z : Bool) (k : FFmt),
    s.cur.guardTrue gd = true → b.toNat < 6 →
    s.accepts [a, a + 1] [] [s.vcheck a t false, s.vcheck (a + 1) t false] = true →
    let w := tagBits t
    let lane (r : BitVec 5) (j : Nat) : Nat := (s.vreg r).lane w (j / (w / 8))
    let on (j : Nat) : Bool := !z || (s.cur.readM 0).val.getLsbD (w * (j / (w / 8)) / 8)
    let sens := s.vsens [a, a + 1] z (if z then (s.cur.readM m).sens else .pub)
    let mask (l : Nat) (i : Instr) (f : Nat → Bool) : Prop := ∃ v : VWord,
      exec i s = .next (s.modCur (fun c => c.push l (.m m) v 0 sens 0)) ∧
      ∀ j, j < 256 → v.getLsbD j = if on j then f j else (s.cur.readM m).val.getLsbD j
    (typeIn 1 7 t = true → mask 2 (.vcmp gd t m a b z) (fun j =>
      let x := readInt t (lane a j)
      let y := readInt t (lane (a + 1) j)
      if b = 0 then x = y else if b = 1 then x ≠ y else if b = 2 then x < y else if b = 3 then x ≥ y else
        if b = 4 then x ≤ y else x > y)) ∧
    (typeIn 8 10 t = true → ffmt t = some k → mask 4 (.vfcmp gd t m a b z) (fun j =>
      let x := k.read (lane a j)
      let y := k.read (lane (a + 1) j)
      if x.isNan || y.isNan then b = 1
      else
        let eq := !x.lt y && !y.lt x
        if b = 0 then eq else if b = 1 then !eq else if b = 2 then x.lt y
        else if b = 3 then y.lt x || eq else if b = 4 then x.lt y || eq else y.lt x)))

/-- VPERM, VSLIDE, VSEL, VRED and VSCAN run on accepted registers (R77, R78, R389, R392, R394): a permutation by indices modulo the
element count, 256 bytes of a pair from byte 8k, a choice by mask bits, the pairwise tree of the active elements, and prefix sums. -/
def Obligations.VectorRearrangements : Prop :=
  ∀ (s : State) (gd : Guard) (t : BitVec 4) (d a b : BitVec 5) (m : BitVec 3) (z : Bool), s.cur.guardTrue gd = true →
    let w := tagBits t
    let old (x : List (BitVec 5)) : List (BitVec 5) := if z then x ++ [d] else x
    let dTag : List (Bool × Word) := if z then [s.vcheck d t false] else []
    let ix := (s.vreg b).fmt
    let sens (x : List (BitVec 5)) : Sens := s.vsens (old x) z .pub
    let act (i : Nat) : Option Nat := if !z || (s.cur.readM 0).val.getLsbD (w * i / 8) then some ((s.vreg a).lane w i) else none
    let rm := s.cur.frm.toNat % 4
    (typeIn 1 12 t = true → s.accepts (old [a, b]) [d]
        ([s.vcheck a t true, (decide (ix = 0) || (tagInt ix && decide (tagBits ix = w)), 0)] ++ dTag) = true →
      exec (.vperm gd t d a b z) s = .next (s.vput 3 t d z (sens [a, b])
        ((List.range (2048 / w)).map (fun i => ((s.vreg a).lane w ((s.vreg b).lane w i % (2048 / w)), 0))))) ∧
    (s.accepts (old [a, a + 1]) [d]
        ((if t = 0 then [] else [s.vcheck a t true, s.vcheck (a + 1) t true]) ++ dTag) = true →
      let pair := (s.vreg a).val.toNat + 2 ^ 2048 * (s.vreg (a + 1)).val.toNat
      exec (.vslide gd t d a b z) s = .next (s.vput 3 t d z (sens [a, a + 1])
        ((List.range (2048 / opBits t)).map (fun i =>
          (pair / 2 ^ (64 * b.toNat + opBits t * i) % 2 ^ opBits t, 0))))) ∧
    (let x := s.vreg a
     let y := s.vreg b
     let u := if x.fmt = 0 then y.fmt else x.fmt
     s.accepts [a, b] [d] [] = true → x.fmt = y.fmt ∨ x.fmt = 0 ∨ y.fmt = 0 →
      ∃ v, exec (.vsel gd m d a b) s = .next (s.pushV 2 d v u ((x.sens.max y.sens).max (s.cur.readM m).sens) 0) ∧
        ∀ i, i < 2048 / grainBits u → (⟨v, u, .pub⟩ : VReg).lane (grainBits u) i =
          if (s.cur.readM m).val.getLsbD (grainBits u * i / 8) then x.lane (grainBits u) i else y.lane (grainBits u) i) ∧
    (typeIn 1 10 t = true → b.toNat < 3 → s.lanesOk t [a] d z false = true →
      ∃ v, exec (.vred gd t d a b z) s = .next (s.pushV 6 d v t (sens [a])
          (redTree (redFn t rm b.toNat) (Nat.log2 (2048 / w)) ((List.range (2048 / w)).map act)).2) ∧
        (⟨v, t, .pub⟩ : VReg).lane w 0 = ((redTree (redFn t rm b.toNat) (Nat.log2 (2048 / w))
          ((List.range (2048 / w)).map act)).1.getD (redEmpty t b.toNat)) % 2 ^ w ∧
        ∀ i, 0 < i → i < 2048 / w → (⟨v, t, .pub⟩ : VReg).lane w i = if z then (s.vreg d).lane w i else 0) ∧
    (typeIn 1 10 t = true → s.lanesOk t [a] d z false = true →
      exec (.vscan gd t d a z) s = .next (s.vput 6 t d z (sens [a])
        (scanList (redFn t rm 0) none ((List.range (2048 / w)).map act))))

/-- What the element-wise vector syllables of one type are refused for (R54, R156, R366): VADD, VSUB, VMUL, VMULH, VMIN, VMAX, VSHL, VSHR,
VRSHR, VMAD and VABS of an integer type, VFADD, VFSUB, VFMUL, VFMIN, VFMAX and VFMA of a floating-point type, VAND, VOR and VXOR of any type,
and VCLAMP. A read or write of v31 that a forwarding window forbids raises Transom misuse; else the first source, d among them where the
mask merges into it, whose tag is neither the type nor, where raw is accepted, raw, raises a format-tag trap with its register, tag and the
type in TRAPVAL. -/
def Obligations.VectorTagMismatchTraps : Prop :=
  ∀ (s : State) (gd : Guard) (t : BitVec 4) (d a b : BitVec 5) (z : Bool), s.cur.guardTrue gd = true →
    let tag (r : BitVec 5) : Tag := (s.vreg r).fmt
    let ok (moves : Bool) (r : BitVec 5) : Bool := tag r = t || (tag r = 0 && (moves || (t ≠ 0 && t.toNat ≤ 7) || 13 ≤ t.toNat))
    let reads (srcs : List (BitVec 5)) : List (BitVec 5) := if z then srcs ++ [d] else srcs
    let misused (srcs : List (BitVec 5)) : Bool := (reads srcs).any (fun r => (s.readV r).isNone) || s.v31Busy d
    let refuses (i : Instr) (srcs : List (BitVec 5)) (moves : Bool) : Prop :=
      (misused srcs = true → exec i s = s.raise 0x17 0) ∧
      (misused srcs = false → ∀ r, (reads srcs).find? (fun r => !ok moves r) = some r →
        exec i s = s.raise 0x04 (BitVec.ofNat 64 (r.toNat + 256 * (tag r).toNat + 4096 * t.toNat)))
    (typeIn 1 7 t = true →
      (∀ i ∈ [Instr.vadd gd t d a b z, .vsub gd t d a b z, .vmul gd t d a b z, .vmulh gd t d a b z, .vmin gd t d a b z,
        .vmax gd t d a b z, .vshl gd t d a b z, .vshr gd t d a b z, .vrshr gd t d a b z], refuses i [a, b] false) ∧
      refuses (.vmad gd t d a b z) [a, b, d] false ∧ refuses (.vabs gd t d a z) [a] false) ∧
    (typeIn 8 10 t = true →
      (∀ i ∈ [Instr.vfadd gd t d a b z, .vfsub gd t d a b z, .vfmul gd t d a b z, .vfmin gd t d a b z, .vfmax gd t d a b z],
        refuses i [a, b] false) ∧
      refuses (.vfma gd t d a b z) [a, b, d] false) ∧
    (∀ i ∈ [Instr.vand gd t d a b z, .vor gd t d a b z, .vxor gd t d a b z], refuses i [a, b] true) ∧
    (typeIn 1 10 t = true → refuses (.vclamp gd t d a b z) [a, b, b + 1] false)

/-! ### S space and the array -/

/-- R94. The bank address of a byte of S space: bank, row and byte as the rule computes them from the address and the HASHKEY; for each
key a one-to-one map of the 4 MiB; a whole line in one bank; the examples of the rule's table; and the map is taken under the HASHKEY
in force at the access's issue, of the address that the window adjusts. -/
def Obligations.SpaceHash : Prop :=
  (∀ (k : Word) (a : Nat), a < 2 ^ 22 →
    let line := a / 2 ^ 8 % 2 ^ 14
    let row := line / 2 ^ 5
    let t := row ^^^ (k.toNat % 2 ^ 9)
    let u := t * (2 * (k.toNat / 2 ^ 9 % 2 ^ 12) + 1) % 512
    let h := (u % 2 ^ 5) ^^^ (u / 2 ^ 5)
    let bank := line % 2 ^ 5 ^^^ h
    bank < 32 ∧ row < 512 ∧ sHash k a = bank * 2 ^ 17 + row * 2 ^ 8 + a % 2 ^ 8) ∧
  (∀ (k : Word) (a b : Nat), a < 2 ^ 22 → b < 2 ^ 22 → sHash k a = sHash k b → a = b) ∧
  (∀ (k : Word) (p : Nat), p < 2 ^ 22 → ∃ a, a < 2 ^ 22 ∧ sHash k a = p) ∧
  (∀ (k l : Word) (a : Nat), k.toNat % 2 ^ 21 = l.toNat % 2 ^ 21 → sHash k a = sHash l a) ∧
  (∀ (k : Word) (a b : Nat), a / 256 = b / 256 → sBank (sHash k a) = sBank (sHash k b)) ∧
  (∀ (s : State) (a : Nat), s.phys a = sHash s.cur.hashKey ((s.window s.issue.core s.cur.part).1 + a)) ∧
  sBank (sHash 0 0x02345) = 2 ∧ sBank (sHash 0x605 0x02345) = 31 ∧ sBank (sHash 0 0x04345) = 1 ∧
  sBank (sHash 0x605 0x04345) = 19 ∧ sBank (sHash 0 0x12345) = 10 ∧ sBank (sHash 0x605 0x12345) = 21

/-- The X-class syllables and SFCFG (R142 to R147, R152 to R159, R174, R357, R398). Where no other context owns the array and the operands are
legal: WLD enters the Shutter and counts in MT; a lock-step MMS starts a pass with its captured registers; an MMS in skip mode and an MDRN
enter the array queue and count in MT; MCFG and SFCFG write the configuration; MSCL reads 128 bf16 scales and their line's
sensitivity. -/
def Obligations.ArraySyllablesRun : Prop :=
  ∀ (s : State) (gd : Guard) (a b c m : BitVec 5), s.cur.guardTrue gd = true →
    let k := s.core s.issue.core
    let x := (s.gw a).toNat
    let mt := s.cur.counts.mt < 16
    let same (u : State) : Prop := s.cur.SameRegs u.cur ∧ s.SameBytes u ∧ (u.core s.issue.core).active = k.active ∧
      (u.core s.issue.core).shadow = k.shadow
    let counted (u : State) : Prop := u.cur.counts = s.cur.counts.set .mt (s.cur.counts.mt + 1)
    let queued (i : Instr) (regs : List Word) (fn : BitVec 5) (cmd : ArrCmd) : Prop := ∃ u : State, exec i s = .next u ∧ same u ∧
      counted u ∧ (u.core s.issue.core).queue = k.queue ++ [⟨s.issue.ctx, false, regs, fn, s.cur.conf, cmd⟩]
    (s.arrayMine = true → k.shutterBusy = false → mt → x < 64 →
      ∃ u y, exec (.wld gd a) s = .next u ∧ same u ∧ counted u ∧ (u.core s.issue.core).shutter = some y ∧
        y.slot = x ∧ y.ctx = s.issue.ctx ∧ y.layout = s.cur.cfg.layout ∧ y.age = 0 ∧ y.bytes = k.w.bytes (3200 * x) 128 ∧
        y.bad = k.wBad (3200 * x) 128) ∧
    (∀ args, s.arrayMine = true → (m.getLsbD 1 = true → k.shutterBusy = false) → m.getLsbD 2 = false →
      k.asyncPass = false → k.passOverlaps s.issue.ctx = false →
      captureMms s.cur.cfg m (s.gw a) (s.gw b) (s.gw c) = .ok args →
      ∃ u : State, exec (.mms gd a b c m) s = .next u ∧ same u ∧ u.cur = s.cur ∧
        (u.core s.issue.core).passes = k.passes ++ [⟨s.issue.ctx % 4, s.cur.priv, args, m.getLsbD 3, 0, []⟩]) ∧
    (∀ args, s.arrayMine = true → (m.getLsbD 1 = true → k.shutterBusy = false) → m.getLsbD 2 = true →
      k.queue.length < 8 → mt → captureMms s.cur.cfg m (s.gw a) (s.gw b) (s.gw c) = .ok args →
      queued (.mms gd a b c m) [s.gw a, s.gw b, s.gw c] m (.pass args 0 0)) ∧
    (∀ args, s.arrayMine = true → k.queue.length < 8 → mt →
      captureMdrn s.cur.cfg s.cur.frm (s.gw a) (s.gw b) (s.gw c) = .ok args →
      queued (.mdrn gd a b c) [s.gw a, s.gw b, s.gw c] 0 (.drain args 0 0)) ∧
    (s.arrayMine = true → mt → x < 2 ^ 10 → x % 2 ^ 4 ∈ [1, 11, 13] → x / 2 ^ 4 % 2 ^ 4 ∈ [1, 5, 8, 9, 10, 11] →
      x / 2 ^ 8 ∈ [1, 2] →
      Runs (.mcfg gd a) s { s.cur with cfg := { s.cur.cfg with
        afmt := BitVec.ofNat 4 x, dfmt := BitVec.ofNat 4 (x / 2 ^ 4), layout := BitVec.ofNat 2 (x / 2 ^ 8) } }) ∧
    (let tag := k.xtags.get LineTag.reset (x / 256)
     s.arrayMine = true → mt → x + 256 ≤ 262144 → x % 256 = 0 → tag.fmt = 0 ∨ tag.fmt = 8 → k.bufOk false x 256 = true →
      (∀ i, i < 128 → k.x.num (x + 2 * i) 2 / 128 % 256 ≠ 255) →
      ∃ d, Runs (.mscl gd a) s { s.cur with cfg := d } ∧ d.afmt = s.cur.cfg.afmt ∧ d.dfmt = s.cur.cfg.dfmt ∧
        d.layout = s.cur.cfg.layout ∧ d.scaleSens = tag.sens ∧ d.gelu = s.cur.cfg.gelu ∧ d.smax = s.cur.cfg.smax ∧
        (∀ i, i < 64 → d.cs.toList.getD i 0 = BitVec.ofNat 16 (k.x.num (x + 2 * i) 2)) ∧
        (∀ i, i < 64 → d.rs.toList.getD i 0 = BitVec.ofNat 16 (k.x.num (x + 128 + 2 * i) 2))) ∧
    (x / 2 % 2 ^ 15 = 0 → x / 2 ^ 32 = 0 → s.gsens a = .pub → x / 2 ^ 23 % 2 ^ 8 ≠ 255 →
      Runs (.sfcfg gd a) s { s.cur with cfg := { s.cur.cfg with
        gelu := (s.gw a).getLsbD 0, smax := BitVec.ofNat 16 (x / 2 ^ 16) } })

/-- The matrix pass (R82, R83, R139, R152), on a Y buffer in its canonical form. A row's sum for column n over the 240 K-rows is the exact sum of weight times activation, the
weight being trit k mod 5 of byte k / 5 of the column, column-major in L0 and row-major in L1, and zero in a plane that is not valid. Its
Y row is written whole: each s32 element the sum, or under accumulation the old element plus the sum, clamped to s32 with ACCSAT; every
other byte of X, Y and W is as before, and the line's tags become s32, linear and at least TEN. -/
def Obligations.MatrixPass : Prop :=
  (∀ (p : Plane) (acts : List Int) (n : Nat), n < 64 → acts.length = 240 → p.data.length = 3072 →
    let byte (j : Nat) : Byte := if p.layout = 2 then p.data.getD (64 * j + n) 0 else p.data.getD (48 * n + j) 0
    (p.sums acts).getD n 0 =
      if p.valid then ((List.range 240).map (fun k => tritOf (byte (k / 5)) (k % 5) * acts.getD k 0)).sum else 0) ∧
  (∀ (s : State) (w : Who) (a : PassArgs) (r : RowSums), r.sums.length = 64 →
    let k := s.core w.core
    let addr := 256 * (a.y0 + r.row)
    let old (n : Nat) : Int := readInt 5 (k.y.num (addr + 4 * n) 4)
    let exact (n : Nat) : Int := if a.acc then old n + r.sums.getD n 0 else r.sums.getD n 0
    let kept (n : Nat) : Int := if a.acc then max (-2 ^ 31) (min (2 ^ 31 - 1) (exact n)) else exact n
    k.y.wf = true → k.bufOk true addr 256 = true →
    let u := s.writeRow w a r
    let v := u.core w.core
    (∀ n, n < 64 → v.y.num (addr + 4 * n) 4 = wrapInt 32 (kept n)) ∧
    (∀ j, j < addr ∨ addr + 256 ≤ j → v.y.byte j = k.y.byte j) ∧ v.x = k.x ∧ v.w = k.w ∧
    (v.ytags.get LineTag.reset (a.y0 + r.row)) =
      ⟨5, (k.ytags.get LineTag.reset (a.y0 + r.row)).sens.max (r.sens.max .ten), 0⟩ ∧
    (u.ctx w).flags = (s.ctx w).flags ||| (if (List.range 64).all (fun n => kept n == exact n) then 0 else flACC))

/-- The events of the array (R149, R150, R152, R155, R158). SHUTTER_COMPLETE after 13 cycles: a checked plane replaces the shadow plane whole, a
failure changes no plane and is reported, and MT falls either way. PASS_ROW advances the pass of a context whose task issues nothing more
(log 13 for one that is terminating or gone) by one cycle: the planes change places in cycle 1 of a pass that swaps, row i is read in
cycle 1 + sw + i and written in cycle 6 + sw + i (R152); v31 as a context reads it in the second of these is the row as it is then in
Y, in s32, and in the earlier cycles of the window it has no value (R156). SKIP_PASS runs the pass at the head of the queue to its end:
every row from the next on holds its sums (added, under accumulation), a dropped row under accumulation keeping its line's tags (R155).
DRAIN_ROW writes one output row to X, and the last one completes the MDRN. Rows of X or Y that have failed are read as free values
(log 23). The memories have their canonical form, which every step keeps, and the core is not frozen for a pre-emption (R210). -/
def Obligations.ArrayEvents : Prop :=
  ∀ (s : State) (core : Nat), s.MemOk → s.coreFrozen core = false →
    let k := s.core core
    (∀ y : Wld, k.shutter = some y → 13 ≤ y.age →
      let w : Who := ⟨core, y.ctx⟩
      ∃ u : State, exec (.shutterComplete core) s = .next u ∧ (u.core core).shutter = none ∧ (u.core core).active = k.active ∧
        (u.ctx w).counts = (s.ctx w).counts.set .mt ((s.ctx w).counts.mt - 1) ∧ (s.ctx w).SameRegs (u.ctx w) ∧ s.SameBytes u ∧
        (∀ ps, shutterCheck y.keyOk y.bad y.layout y.bytes = .ok ps →
          (u.core core).shadow = ⟨true, y.slot, y.layout, ps⟩ ∧ (u.ctx w).reports = (s.ctx w).reports) ∧
        (∀ c o, shutterCheck y.keyOk y.bad y.layout y.bytes = .error (c, o) →
          (u.core core).shadow = k.shadow ∧ ((s.ctx w).terminating = none →
            (u.ctx w).reports = (s.ctx w).reports ++ [⟨c, BitVec.ofNat 64 (y.slot * 65536 + o)⟩]))) ∧
    (∀ p : Pass, k.passes = [p] → (k.ctx p.ctx).spent = true →
      let sw := p.args.sw.toNat
      let rows := if 1 + sw ≤ p.age ∧ p.age ≤ sw + p.args.rows then
        p.rows ++ [(k.readRow p.args (p.age - 1 - sw)).1] else p.rows
      ∃ u q, exec (.passRow core) s = .next u ∧ q.age = p.age + 1 ∧ q.args = p.args ∧ q.ctx = p.ctx ∧ q.fwd = p.fwd ∧ q.priv = p.priv ∧
        (u.core core).passes = (if p.last < p.age + 1 then [] else [q]) ∧ (u.core core).x = k.x ∧
        (if p.args.sw = true ∧ p.age = 1 then (u.core core).active = k.shadow ∧ (u.core core).shadow = k.active
          else (u.core core).active = k.active ∧ (u.core core).shadow = k.shadow) ∧
        (p.age < 6 + sw → q.rows = rows ∧ (u.core core).y = k.y ∧ (u.core core).ytags = k.ytags) ∧
        (∀ r rest, 6 + sw ≤ p.age → rows = r :: rest → q.rows = rest ∧
          (u.core core).y = ((s.writeRow ⟨core, p.ctx⟩ p.args r).core core).y ∧
          (u.core core).ytags = ((s.writeRow ⟨core, p.ctx⟩ p.args r).core core).ytags)) ∧
    (∀ (p : Pass) (x : Nat) (slots : List Slot), k.passes = [p] → p.fwd = true → p.ctx = x % 4 → (k.ctx x).priv = false → p.age ≤ p.last →
      s.issue.core = core → s.issue.ctx = x → s.issue.overlay = s.transomRow ⟨core, x⟩ slots →
      (p.age < 6 + p.args.sw.toNat → s.readV 31 = none) ∧
      (∀ r rest, 6 + p.args.sw.toNat ≤ p.age → p.rows = r :: rest →
        let line := p.args.y0 + r.row
        let stored := (s.plainBufStores slots).foldl Core.slotStore k
        let after := (s.setCore core stored).writeRow ⟨core, x⟩ p.args r
        s.readV 31 = some ⟨BitVec.ofNat 2048 ((after.core core).y.num (256 * line) 256), 5,
          (stored.ytags.get LineTag.reset line).sens.max (r.sens.max .ten)⟩)) ∧
    (∀ (e : ArrEntry) (rest : List ArrEntry) (a : PassArgs) (prep next : Nat), k.queue = e :: rest →
      e.cmd = .pass a prep next → k.passes = [] → next ≤ a.rows → a.rows ≤ 512 →
      (a.sw = true → prep = 0 → k.shutter = none) → k.bufOk true (256 * a.y0) (256 * a.rows) = true →
      let kk : Core := if a.sw = true ∧ prep = 0 then k.swap else k
      ∃ u : State, exec (.skipPass core) s = .next u ∧ (u.core core).queue = rest ∧
        (u.ctx ⟨core, e.ctx⟩).counts.mt = (s.ctx ⟨core, e.ctx⟩).counts.mt - 1 ∧ (u.core core).x = k.x ∧
        (u.core core).active = kk.active ∧ (u.core core).shadow = kk.shadow ∧
        (∀ j, j < 256 * (a.y0 + next) ∨ 256 * (a.y0 + a.rows) ≤ j → (u.core core).y.byte j = k.y.byte j) ∧
        ∀ i, next ≤ i → i < a.rows →
          let r := (kk.readRow a i).1
          let tag := k.ytags.get LineTag.reset (a.y0 + i)
          (∀ n, n < 64 →
            let at' := 256 * (a.y0 + i) + 4 * n
            let sum := r.sums.getD n 0
            (u.core core).y.num at' 4 = wrapInt 32 (if a.acc then
              max (-2 ^ 31) (min (2 ^ 31 - 1) (readInt 5 (k.y.num at' 4) + sum)) else sum)) ∧
          (u.core core).ytags.get LineTag.reset (a.y0 + i) =
            (if rowDropped a k i = true ∧ a.acc = true then tag else ⟨5, tag.sens.max (r.sens.max .ten), 0⟩)) ∧
    (∀ (e : ArrEntry) (rest : List ArrEntry) (a : DrainArgs) (j : Nat) (fl : BitVec 7), k.queue = e :: rest →
      e.cmd = .drain a j fl → k.bufOk true (256 * (a.y0 + j)) 256 = true →
      let width := tagBits a.cfg.dfmt / 8
      let elem (n : Nat) : Nat × BitVec 7 := drainElem a (readInt 5 (k.y.num (256 * (a.y0 + j) + 4 * n) 4))
        (a.cfg.cs.toList.getD n 0) (a.cfg.rs.toList.getD j 0)
      let at' := a.xaddr + j * a.stride
      ∃ u g, exec (.drainRow core) s = .next u ∧
        (∀ n, n < 64 → (u.core core).x.num (at' + n * width) width = (elem n).1 % 2 ^ (8 * width)) ∧
        (∀ i, i < at' ∨ at' + 64 * width ≤ i → (u.core core).x.byte i = k.x.byte i) ∧ (u.core core).y = k.y ∧
        (∀ i, g.getLsbD i = true ↔ ∃ n, n < 64 ∧ (elem n).2.getLsbD i = true) ∧
        (j + 1 < a.rows → (u.core core).queue = { e with cmd := .drain a (j + 1) (fl ||| g) } :: rest) ∧
        (a.rows ≤ j + 1 → (u.core core).queue = rest ∧
          (u.ctx ⟨core, e.ctx⟩).flags = (s.ctx ⟨core, e.ctx⟩).flags ||| (fl ||| g) ∧
          (u.ctx ⟨core, e.ctx⟩).counts.mt = (s.ctx ⟨core, e.ctx⟩).counts.mt - 1))

/-! ### Engine commands -/

/-- CPY, CPYG, CPYX and ABSORB (R36, R133, R163 to R169, R232, R312 to R314). Where the channel holds fewer than eight commands, the counts have
room and the operands pass their checks, one command enters the named channel at its end, with the shape that its registers give, and
counts in CP (CPYX in MT too, with the captured command of its bundle's X syllable; which context owns the array makes no difference to it,
log 59). The bytes that the earlier ABSORBs of a session have not hashed yet count towards R234's limit. No byte and no register changes.

The shape of a copy (R163 to R165): the fields of g(a) to g(a+2) and of the pair at g(b), accepted where the spaces may be read and
written, the reserved bits are zero, the length, layout and total are in range and every row lies within its space; and byte j of row
(i2, i1) stands at base plus i2 times S2 plus i1 times S1 plus j, at its source as at its destination, modulo 2^64 (log 50). -/
def Obligations.CopySyllablesRun : Prop :=
  (∀ (s : State) (gd : Guard) (a b c : BitVec 5) (x : Bool) (h : BitVec 2) (sh : CopyShape) (comp : Option Completion),
    s.cur.guardTrue gd = true →
    let k := s.core s.issue.core
    let n := s.cur.counts
    let queued (i : Instr) (m : Counts) (nc absorb : Bool) (chained : Option (ArrEntry × Word)) : Prop :=
      ∃ (u : State) (cmd : CopyCmd), exec i s = .next u ∧ s.Accepts u m ∧
        (∀ j, (u.core s.issue.core).chan j = if j % 4 = h.toNat then k.chan j ++ [cmd] else k.chan j) ∧
        cmd.shape = sh ∧ cmd.nc = nc ∧ cmd.completion = comp ∧ cmd.absorb = absorb ∧ cmd.chained = chained ∧
        cmd.ctx = s.issue.ctx % 4 ∧ cmd.hashKey = s.cur.hashKey ∧ cmd.own = s.ownStores s.who ∧ cmd.done = 0
    (k.chan h.toNat).length < 8 → n.cp < 32 →
    (s.copyShape a b = .ok sh → s.completesOn x (s.gw (a + 3)) c comp →
      queued (.cpy gd a b c x h) (n.more .cp) x false none) ∧
    (s.gatherShape a b = .ok sh → s.completesOn x (s.gw (a + 3)) c comp →
      queued (.cpyg gd a b c x h) (n.more .cp) x false none) ∧
    (∀ i regs fn cmd, n.mt < 16 → s.copyShape a b = .ok sh → s.completesOn x (s.gw (a + 3)) c comp →
      s.issue.chain = some i → captureChained s.cur i (BitVec.ofNat 64 s.issue.chainWord) = .ok (regs, fn, cmd) →
      queued (.cpyx gd a b c x h) ((n.more .cp).more .mt) x false
        (some (⟨s.issue.ctx % 4, true, regs, fn, s.cur.conf, cmd⟩, BitVec.ofNat 64 s.issue.chainWord))) ∧
    (s.copyShape a b = .ok sh → s.completesOn false (s.gw (a + 3)) c comp → s.sealPresent = true → s.cur.sealState = 1 →
      s.cur.sealBytes.toNat + ((k.absorbs s.issue.ctx).foldl (fun m e => m + (e.2.shape.total - (e.2.done - e.2.input.length))) 0) +
        sh.total < 2 ^ 40 →
      queued (.absorb gd a b c h) (n.more .cp) false true none)) ∧
  ((∀ (s : State) (a b : BitVec 5),
    let src := (s.gw a).toNat
    let dst := (s.gw (a + 1)).toNat
    let w := (s.gw (a + 2)).toNat
    let len : Nat := bitsOf w 0 20
    let n1 := bitsOf w 20 16 + 1
    let n2 := bitsOf w 36 16 + 1
    let st (r : BitVec 5) (k : Nat) : Int := if b = 0 then 0 else ((s.gw r).extractLsb' k 32).toInt
    let inside (space base : Nat) (r : BitVec 5) : Prop := ∀ i1 i2 : Nat, i1 < n1 → i2 < n2 →
      0 ≤ (base : Int) + i2 * st r 32 + i1 * st r 0 ∧
        (base : Int) + i2 * st r 32 + i1 * st r 0 + len ≤ (s.extent s.issue.core s.cur.part space : Int)
    bitsOf src 56 5 = 0 → bitsOf dst 56 5 = 0 → bitsOf w 52 4 = 0 → bitsOf w 62 2 = 0 → bitsOf w 60 2 ≠ 3 →
    len ≠ 0 → len * n1 * n2 ≤ 2 ^ 32 → bitsOf src 61 3 ∈ [0, 1, 3, 4] → bitsOf dst 61 3 ∈ [0, 1, 2, 3, 4] →
    (bitsOf src 61 3 ≠ 4 → inside (bitsOf src 61 3) (bitsOf src 0 56) b) →
    (bitsOf dst 61 3 ≠ 4 → inside (bitsOf dst 61 3) (bitsOf dst 0 56) (b + 1)) →
    ∃ sh, s.copyShape a b = .ok sh ∧ sh.srcSpace = bitsOf src 61 3 ∧ sh.src = bitsOf src 0 56 ∧ sh.dstSpace = bitsOf dst 61 3 ∧
      sh.dst = bitsOf dst 0 56 ∧ sh.len = len ∧ sh.n1 = n1 ∧ sh.n2 = n2 ∧ sh.fmt.toNat = bitsOf w 56 4 ∧
      sh.layout.toNat = bitsOf w 60 2 ∧ sh.ss1 = st b 0 ∧ sh.ss2 = st b 32 ∧ sh.ds1 = st (b + 1) 0 ∧
      sh.ds2 = st (b + 1) 32 ∧ sh.gather = none) ∧
  (∀ (sh : CopyShape) (j i1 i2 : Nat), j < sh.len → i1 < sh.n1 → sh.gather = none →
    sh.srcAt ((i2 * sh.n1 + i1) * sh.len + j) = (((sh.src : Int) + i2 * sh.ss2 + i1 * sh.ss1 + j) % (2 : Int) ^ 64).toNat ∧
    sh.dstAt ((i2 * sh.n1 + i1) * sh.len + j) = (((sh.dst : Int) + i2 * sh.ds2 + i1 * sh.ds1 + j) % (2 : Int) ^ 64).toNat))

/-- SFX, SPAWN and COLL (R171, R175, R177, R185, R311, R355, R356). SFX with legal operands enters the sweep queue and counts in SF. SPAWN with
legal operands sends the launch to its die's Pump, releases at package scope and counts in CP. COLL with legal operands adds its part to
the next instance of its group and counts in CP. -/
def Obligations.OtherEngineSyllablesRun : Prop :=
  ∀ (s : State) (gd : Guard) (a b c f : BitVec 5) (t : BitVec 3) (o : BitVec 2), s.cur.guardTrue gd = true →
    let k := s.core s.issue.core
    let ga := (s.gw a).toNat
    let gb := (s.gw b).toNat
    let n := s.cur.counts
    (∀ comp : Option Completion, let size := tagBits (BitVec.ofNat 4 (bitsOf gb 56 4)) / 8
      let elems := bitsOf gb 0 16
      let rows := bitsOf gb 16 16
      let stride := bitsOf gb 32 18
      let src := bitsOf ga 0 22
      let dst := bitsOf ga 32 22
      let srcS : Bool := bitsOf ga 23 1 = 1
      let dstS : Bool := bitsOf ga 55 1 = 1
      let lim (y : Bool) : Nat := s.extent s.issue.core s.cur.part (if y then 3 else 0)
      k.sweeps.length < 16 → n.sf < 16 → bitsOf ga 22 1 = 0 → bitsOf ga 24 8 = 0 → bitsOf ga 54 1 = 0 →
      bitsOf ga 56 8 = 0 → bitsOf gb 50 6 = 0 → bitsOf gb 60 4 = 0 → 1 ≤ elems ∧ elems ≤ 16384 → 1 ≤ rows ∧ rows ≤ 4096 →
      8 ≤ bitsOf gb 56 4 ∧ bitsOf gb 56 4 ≤ 10 → stride % size = 0 → src % size = 0 → dst % size = 0 →
      src + (rows - 1) * stride + elems * size ≤ lim srcS → dst + (rows - 1) * stride + elems * size ≤ lim dstS →
      (if c = 0 then comp = none
        else ∃ key, s.checkHandle s.who s.cur.part s.cur.hashKey true (s.gw c) = .ok key ∧
          comp = some ⟨key, s.gw c, 1⟩) →
      ∃ (u : State) (cmd : SweepCmd), exec (.sfx gd a b c f) s = .next u ∧ s.Accepts u (n.more .sf) ∧
        (u.core s.issue.core).sweeps = k.sweeps ++ [cmd] ∧ cmd.ctx = s.issue.ctx % 4 ∧ cmd.fn = f.toNat ∧ cmd.src = src ∧
        cmd.srcS = srcS ∧ cmd.dst = dst ∧ cmd.dstS = dstS ∧ cmd.elems = elems ∧ cmd.rows = rows ∧ cmd.stride = stride ∧
        cmd.ty.toNat = bitsOf gb 56 4 ∧ cmd.completion = comp ∧ cmd.hashKey = s.cur.hashKey ∧ cmd.frm = s.cur.frm ∧
        cmd.gelu = s.cur.cfg.gelu ∧ cmd.smax = s.cur.cfg.smax ∧ cmd.next = 0) ∧
    (n.cp < 32 → bitsOf ga 21 11 = 0 → s.gsens a = .pub → s.gsens b ≠ .seal → s.gsens (b + 1) ≠ .seal →
      ∃ (u : State) (l : Launch) (r : Release), exec (.spawn gd a b) s = .next u ∧ u.cur.counts.cp = n.cp + 1 ∧ s.cur.SameRegs u.cur ∧ s.SameBytes u ∧
        (u.die (dieOf s.issue.core)).inbox = (s.die (dieOf s.issue.core)).inbox ++ [l] ∧ l.src = .spawn s.who ∧
        l.part = s.cur.part ∧ l.handle = s.gw a ∧ l.arg0 = s.gw b ∧ l.arg1 = s.gw (b + 1) ∧ l.tenant = s.cur.kslot ∧
        l.rels = [r.id] ∧ u.releases = r :: s.releases ∧ r.scope = .package) ∧
    (∀ comp : Option Completion, let group := (s.part s.cur.part).collGroups.getD gb (0, [])
      let w := (s.gw (a + 2)).toNat
      let key := (s.cur.part * 4096 + gb) * 65536 + bitsOf w 32 16
      n.cp < 32 → ga < 2 ^ 56 → (s.gw (a + 1)).toNat < 2 ^ 56 → collSize t.toNat ∣ ga →
      collSize t.toNat ∣ (s.gw (a + 1)).toNat → 1 ≤ bitsOf w 0 32 ∧ bitsOf w 0 32 ≤ 2 ^ 28 →
      gb < (s.part s.cur.part).collGroups.length → gb < 4096 → bitsOf w 48 16 = group.1 →
      group.2[bitsOf w 32 16]? = some (Config.packageNumber ++ BitVec.ofNat 16 s.issue.core) →
      s.completesOn false (s.gw (a + 3)) c comp →
      ∃ (u : State) (col : Coll) (p : CollPart), exec (.coll gd a b c t o) s = .next u ∧ s.Accepts u (n.more .cp) ∧ col ∈ u.colls ∧ p ∈ col.parts ∧
        col.part = s.cur.part ∧ col.group = gb ∧ col.index = s.collIssued.get 0 key ∧
        u.collIssued.get 0 key = s.collIssued.get 0 key + 1 ∧ p.who = some s.who ∧ p.rank = bitsOf w 32 16 ∧
        p.op = o.toNat ∧ p.ty = t.toNat ∧ p.n = bitsOf w 0 32 ∧ p.send = ga ∧ p.recv = (s.gw (a + 1)).toNat ∧
        p.completion = comp)

/-- SEAL OPEN and CLOSE, KROT, SCRUB, CKPT and RSTR (R231, R233, R238, R239, R241, R242, R308, R309, R324, R344, R347, R349, R352). Where the
operands pass the checks of the command: OPEN begins a session with the slot, model, metadata, record address, counter handle and
increment it captures, STATE 1 and no byte hashed (a metadata line that has failed gives a session that has failed with cause 0x0F and hashes
nothing, log 23); CLOSE makes STATE 2; the others go in flight with what they captured, CKPT taking the slot's next image serial. CLOSE
and the last four count in CP; no byte of memory changes. -/
def Obligations.SealSyllablesRun : Prop :=
  ∀ (s : State) (gd : Guard) (a b c : BitVec 5) (comp : Completion), s.cur.guardTrue gd = true →
    let k := s.core s.issue.core
    let n := s.cur.counts
    let mine := s.issue.ctx % 4
    let flies (i : Instr) (cmd : MiscCmd) : Prop := ∃ u : State, exec i s = .next u ∧ s.Accepts u (n.more .cp) ∧
      (u.core s.issue.core).misc = k.misc ++ [cmd]
    n.cp < 32 →
    (let slot := (s.gw a).toNat
     let md := (s.gw (a + 1)).toNat
     let rc := (s.gw (a + 2)).toNat
     let bytes := k.arrayBytes false md 64
     let model := leNat (bytes.take 2)
     slot < 8192 → md + 64 ≤ 262144 → md % 64 = 0 → rc < 2 ^ 56 → rc % 4096 = 0 →
      s.checkHandle s.who s.cur.part s.cur.hashKey true (s.gw (a + 3)) = .ok comp.key → s.sealPresent = true →
      s.cur.sealState = 0 → (s.key slot).ty = 6 → (s.key slot).part.toNat = s.cur.part →
      model = 65535 ∨ model < 8192 ∧ s.modelGranted s.cur.part model s.cur.kslot = true → s.gsens c = .pub →
      let fresh (z : Session) : Prop := z.slot.toNat = slot ∧ z.model.toNat = model ∧ z.metaBytes = bytes ∧
        z.metaSens = (k.xtags.get LineTag.reset (md / 256)).sens ∧ z.record = rc ∧
        z.completion = ⟨comp.key, s.gw (a + 3), (s.gw c).toNat⟩ ∧ z.hashed = []
      (k.bufOk false md 64 = true →
        ∃ z : Session, Runs (.sealOpen gd a c) s { s.cur with session := some z, sealState := 1, sealBytes := 0 } ∧ fresh z ∧
          z.failed = none ∧ z.stopped = false) ∧
      (k.bufOk false md 64 = false →
        ∃ (u : State) (z : Session), exec (.sealOpen gd a c) s = .next u ∧ u.cur.session = some z ∧ u.cur.sealState = 1 ∧ fresh z ∧
          z.failed = some 0x0F ∧ z.stopped = true)) ∧
    (s.sealPresent = true → s.cur.sealState = 1 →
      ∃ u : State, exec (.sealClose gd) s = .next u ∧
        u.cur = { s.cur with
          session := s.cur.session.map (fun z => { z with born := s.serial }), sealState := 2, counts := n.more .cp } ∧
        s.SameBytes u ∧ ∀ w : Who, ¬(w.core = s.issue.core ∧ w.ctx % 4 = s.issue.ctx % 4) → u.ctx w = s.ctx w) ∧
    (let slot := (s.gw a).toNat
     s.cur.priv = true → slot < 8192 → (s.key slot).ty ∈ [1, 2, 5] → (s.key slot).part.toNat = s.cur.part →
      (s.key slot).sweep = false → s.completesOn false (s.gw b) c (some comp) →
      flies (.krot gd a b c) (.krot mine s.cur.part (BitVec.ofNat 13 slot) comp false s.serial s.cur.taskId)) ∧
    (let f := s.gw a
     let base := (s.gw (a + 1)).toNat
     let len := (s.gw (a + 2)).toNat
     let ks := (s.gw b).toNat
     let range : Bool := f.toNat / 16 = 1
     let drop : Bool := ks / 2 ^ 15 = 1
     s.cur.priv = true → f.toNat < 32 → (f.toNat % 16 ≠ 0 → k.scrubReady s.issue.ctx = true) →
      (range = true → base < 2 ^ 56 ∧ base % 64 = 0 ∧ len ≠ 0 ∧ len % 64 = 0 ∧ len ≤ 2 ^ 40) →
      ks < 8192 ∨ 32768 ≤ ks ∧ ks < 40960 →
      (drop = true → (s.key (ks % 8192)).ty = 3 ∧ (s.key (ks % 8192)).part.toNat = s.cur.part) →
      s.completesOn false (s.gw (a + 3)) c (some comp) →
      flies (.scrub gd a b c) (.scrub mine (f.setWidth 5) (if range then base else 0) (if range then len else 0)
        (if drop then some (BitVec.ofNat 13 ks, s.cur.kslot) else none) comp s.serial)) ∧
    (let g0 := (s.gw a).toNat
     let img := (s.gw (a + 1)).toNat
     let g2 := (s.gw (a + 2)).toNat
     let slot := g2 % 2 ^ 13
     let model := g2 / 2 ^ 16 % 2 ^ 13
     let named : Bool := g2 / 2 ^ 31 = 1
     1 ≤ g0 / 2 ^ 56 → g0 / 2 ^ 56 ≤ 64 → g0 % 64 = 0 → img < 2 ^ 56 → img % 4096 = 0 → g2 < 2 ^ 32 →
      g2 / 2 ^ 13 % 8 = 0 → g2 / 2 ^ 29 % 4 = 0 → (s.key slot).ty = 5 → (s.key slot).part.toNat = s.cur.part →
      (named = true → s.modelGranted s.cur.part model s.cur.kslot = true) →
      s.completesOn false (s.gw (a + 3)) c (some comp) →
      ∃ u : State, exec (.ckpt gd a c) s = .next u ∧ s.Accepts u (n.more .cp) ∧
        (u.key slot).images = (s.key slot).images + 1 ∧ (u.core s.issue.core).misc = k.misc ++
          [.ckpt mine (g0 % 2 ^ 56) (g0 / 2 ^ 56) img (BitVec.ofNat 13 slot) (if named then some (BitVec.ofNat 13 model) else none)
            s.cur.kslot ((s.key slot).ver, (s.key s.cur.kslot.toNat).ver, (s.key model).ver) ((s.key slot).images + 1) comp
            s.cur.hashKey (s.ownStores s.who) s.copyVis s.serial]) ∧
    (let img := (s.gw a).toNat
     s.cur.priv = true → img < 2 ^ 56 → img % 4096 = 0 → s.completesOn false (s.gw (a + 1)) (a + 2) (some comp) →
      flies (.rstr gd a) (.rstr mine img s.cur.kslot comp s.cur.hashKey (s.ownStores s.who) s.copyVis s.serial))

/-- DECL in supervisor mode (R229, R315, R316): the sensitivity of the named register, or of the named lines of a space, becomes the lower of
what it was and the level; the value, the format and every other register and line stay, those of the other spaces, cores and clusters too;
a named register or line that is SEAL, one line of several even where others lie outside the space or the address is misaligned, raises cause
0x08 with the operand in TRAPVAL (R197). -/
def Obligations.DeclLowers : Prop :=
  ∀ (s : State) (gd : Guard) (g : BitVec 5) (level r : Nat), s.cur.guardTrue gd = true → s.cur.priv = true → level < 2 → r < 32 →
    let c := s.cur
    let lv := Sens.ofCode level
    let names (kind : Nat) : Prop := (s.gw g).toNat = kind + 8 * level + 32 * r
    let lowers (P : Ctx → Prop) : Prop := ∃ d, Runs (.decl gd g) s d ∧ c.SameControl d ∧ P d
    (names 0 → c.gs (BitVec.ofNat 5 r) ≠ .seal → lowers (fun d => d.v = c.v ∧ d.p = c.p ∧ d.m = c.m ∧ d.q = c.q ∧
      ∀ i, d.readG i = if i.toNat = r then ⟨c.gv i, (c.gs i).min lv⟩ else c.readG i)) ∧
    (names 1 → (c.fileV (BitVec.ofNat 5 r)).sens ≠ .seal → s.v31Busy (BitVec.ofNat 5 r) = false →
      lowers (fun d => d.g = c.g ∧ d.p = c.p ∧ d.m = c.m ∧ d.q = c.q ∧
        ∀ i, d.fileV i = if i.toNat = r then { c.fileV i with sens := (c.fileV i).sens.min lv } else c.fileV i)) ∧
    (names 2 → r < 8 → (c.readP (BitVec.ofNat 3 r)).sens ≠ .seal → lowers (fun d => d.g = c.g ∧ d.v = c.v ∧ d.m = c.m ∧ d.q = c.q ∧
      ∀ i, d.readP i = if i.toNat = r then { c.readP i with sens := (c.readP i).sens.min lv } else c.readP i)) ∧
    (names 3 → r < 8 → (c.readM (BitVec.ofNat 3 r)).sens ≠ .seal → lowers (fun d => d.g = c.g ∧ d.v = c.v ∧ d.p = c.p ∧ d.q = c.q ∧
      ∀ i, d.readM i = if i.toNat = r then { c.readM i with sens := (c.readM i).sens.min lv } else c.readM i)) ∧
    (names 4 → r < 4 → (c.readQ (BitVec.ofNat 2 r)).sens ≠ .seal → lowers (fun d => d.g = c.g ∧ d.v = c.v ∧ d.p = c.p ∧ d.m = c.m ∧
      ∀ i, d.readQ i = if i.toNat = r then { c.readQ i with sens := (c.readQ i).sens.min lv } else c.readQ i)) ∧
    (∀ sp addr lines, sp = 0 ∨ sp = 1 ∨ sp = 3 → 1 ≤ lines → lines ≤ 1024 → addr % 256 = 0 →
      addr + 256 * lines ≤ s.extent s.issue.core c.part sp →
      (s.gw g).toNat = 5 + 8 * level + 2 ^ 16 * lines + 2 ^ 32 * addr + 2 ^ 61 * sp →
      (∀ l ∈ s.declList sp addr lines, ((s.tagsOf sp).get LineTag.reset l).sens ≠ .seal) →
      ∃ u : State, exec (.decl gd g) s = .next u ∧ s.SameBytes u ∧ (∀ w, u.ctx w = s.ctx w) ∧
        ∀ l, (u.tagsOf sp).get LineTag.reset l =
          let t := (s.tagsOf sp).get LineTag.reset l
          if l ∈ s.declList sp addr lines then { t with sens := t.sens.min lv } else t) ∧
    (∀ sp addr lines, sp = 0 ∨ sp = 1 ∨ sp = 3 → 1 ≤ lines → lines ≤ 1024 → addr < 2 ^ 22 →
      (s.gw g).toNat = 5 + 8 * level + 2 ^ 16 * lines + 2 ^ 32 * addr + 2 ^ 61 * sp →
      (∀ u : State, exec (.decl gd g) s = .next u → (∀ x, x ≠ sp → x = 0 ∨ x = 1 ∨ x = 3 → u.tagsOf x = s.tagsOf x) ∧
        (∀ k, k ≠ s.issue.core → (u.core k).xtags = (s.core k).xtags ∧ (u.core k).ytags = (s.core k).ytags) ∧
        ∀ cl, cl ≠ clusterOf s.issue.core → (u.cluster cl).stags = (s.cluster cl).stags) ∧
      ((∃ l ∈ s.declList sp addr lines, ((s.tagsOf sp).get LineTag.reset l).sens = .seal) →
        exec (.decl gd g) s = s.raise 0x08 (s.gw g))) ∧
    (∀ kind x, names kind → kind ≤ 4 → c.declTarget kind r = some x → x = .seal →
      exec (.decl gd g) s = s.raise 0x08 (s.gw g))

/-! ### What happens at homes -/

/-- The function of an AMO or RED (R122, R123): add, signed and unsigned minimum and maximum, and, or, xor and exchange on words of 32 or 64
bits; f32 and packed bf16 addition on 32 bits, to nearest even.

An atomic at its home (R121, R124, R127 to R131, R297), where every memory is canonical. Where it may be performed and none of the context's own stores to its bytes is
outstanding, AMO writes the function of the old word, CAS and CASL write the new word where the old one equals the expected one and nothing
otherwise, RED writes like AMO; no other byte changes. AMO, CAS and CASL record the old word and the predicate for their return; RED
leaves and GS falls. A CASL that has reserved a slot of its slice's Wellhead, or finds one free, and that wrote, and wrote zero where it asks
for that, puts one launch into the Wellhead; its reservation ends. One without a slot is a RETRY: it writes nothing and returns the value it
expects with predicate 0. -/
def Obligations.AtomicsAtHomes : Prop :=
  (∀ (wide : Bool) (m v : Nat),
    let w := if wide then 64 else 32
    let sg (x : Nat) : Int := (BitVec.ofNat w x).toInt
    m < 2 ^ w → v < 2 ^ w →
    amoFn 0 wide m v = (m + v) % 2 ^ w ∧ sg (amoFn 1 wide m v) = min (sg m) (sg v) ∧
    sg (amoFn 2 wide m v) = max (sg m) (sg v) ∧ amoFn 3 wide m v = min m v ∧ amoFn 4 wide m v = max m v ∧
    (∀ i, (amoFn 5 wide m v).testBit i = (m.testBit i && v.testBit i)) ∧
    (∀ i, (amoFn 6 wide m v).testBit i = (m.testBit i || v.testBit i)) ∧
    (∀ i, (amoFn 7 wide m v).testBit i = (m.testBit i ^^ v.testBit i)) ∧ amoFn 8 wide m v = v ∧
    (wide = false → amoFn 9 wide m v = (f32Fmt.add 0 m v).1 ∧
      amoFn 10 wide m v % 2 ^ 16 = (bf16Fmt.add 0 (m % 2 ^ 16) (v % 2 ^ 16)).1 ∧
      amoFn 10 wide m v / 2 ^ 16 = (bf16Fmt.add 0 (m / 2 ^ 16) (v / 2 ^ 16)).1)) ∧
  (∀ (s : State) (core : Nat) (ctx : BitVec 2) (i : Nat) (o : VlOp) (p : Place) (a : Nat) (wide : Bool),
    let w : Who := ⟨core, ctx.toNat⟩
    let n := if wide then 8 else 4
    let lim := 2 ^ (8 * n)
    let old := leNat (s.homeBytes p a n)
    s.MemOk → (s.ctx w).ops[i]? = some o → s.homeReady w i o = true → (∀ q ∈ s.pubs, q.who ≠ w) →
    (∀ t ∈ (s.ctx w).stores, t.place = p → overlaps t.addr t.bytes.length a n = false) → s.rangeOk p a n = true →
    (p = .hbm ∧ (s.raiseTree a).isSome = true) ∨ (∃ c, p = .s c) →
    let others (u : State) : Prop := ∀ q b, q ≠ p ∨ b < a ∨ a + n ≤ b → u.homeByte q b = s.homeByte q b
    let wrote (u : State) (v : Nat) : Prop := u.homeBytes p a n = leBytes n v ∧ others u
    let back (u : State) (regs : List (Reg × VWord × Tag)) : Prop := ∃ o' rels seen, (u.ctx w).ops[i]? = some o' ∧
      o'.result = some ⟨regs, none, rels, seen⟩ ∧ o'.kind = o.kind
    (∀ fn v d, o.kind = .amo p a wide fn v d →
      ∃ u : State, exec (.atomicPerformed core ctx i) s = .next u ∧ wrote u (amoFn fn wide old (v.toNat % lim)) ∧
        back u [(d, BitVec.ofNat 2048 old, 0)]) ∧
    (∀ e v d q, o.kind = .cas p a wide e v d q →
      ∃ u : State, exec (.atomicPerformed core ctx i) s = .next u ∧
        wrote u (if old = e.toNat % lim then v.toNat % lim else old) ∧
        back u [(.g d, BitVec.ofNat 2048 old, 0), (.p q, BitVec.ofNat 2048 (decide (old = e.toNat % lim)).toNat, 0)]) ∧
    (∀ e v h arg z d q tn b, o.kind = .casl p a wide e v h arg z d q tn →
      s.reservedBy w o (s.sliceOf a) = some b ∨
        s.reservedBy w o (s.sliceOf a) = none ∧ s.reserveLaunch (s.ctx w).part (s.sliceOf a) = some b →
      let hit : Bool := decide (old = e.toNat % lim)
      ∃ u : State, exec (.caslPerformed core ctx i) s = .next u ∧
        wrote u (if hit then v.toNat % lim else old) ∧
        back u [(.g d, BitVec.ofNat 2048 old, 0), (.p q, BitVec.ofNat 2048 hit.toNat, 0)] ∧
        u.reservedBy w o (s.sliceOf a) = none ∧
        ((hit && (!z || v.toNat % lim = 0)) = false → (u.slice (s.sliceOf a)).well = (s.slice (s.sliceOf a)).well) ∧
        ((hit && (!z || v.toNat % lim = 0)) = true → ∃ l : Launch, (u.slice (s.sliceOf a)).well =
          (s.slice (s.sliceOf a)).well ++ [⟨l, b⟩] ∧ l.src = .continuation (s.sliceOf a) o.va ∧
          l.part = (s.ctx w).part ∧ l.handle = h ∧ l.arg0.toNat = old ∧ l.arg1 = arg ∧ l.tenant = tn)) ∧
    (∀ e v h arg z d q tn, o.kind = .casl p a wide e v h arg z d q tn → s.reservedBy w o (s.sliceOf a) = none →
      s.reserveLaunch (s.ctx w).part (s.sliceOf a) = none →
      ∃ u : State, exec (.caslPerformed core ctx i) s = .next u ∧ (∀ q b, u.homeByte q b = s.homeByte q b) ∧ u.slices = s.slices ∧
        back u [(.g d, BitVec.ofNat 2048 e.toNat, 0), (.p q, 0, 0)]) ∧
    (∀ fn v, o.kind = .red p a wide fn v →
      ∃ u : State, exec (.redPerformed core ctx i) s = .next u ∧ wrote u (amoFn fn wide old (v.toNat % lim)) ∧
        (u.ctx w).counts = (s.ctx w).counts.less .gs ∧ (u.ctx w).ops = (s.ctx w).ops.filter (fun x => x.id != o.id)))

/-- Stores, publications and advances at their homes (R112 to R114, R119). Where every memory is canonical, a store that may be performed writes its bytes at its place and no
other byte, leaves its publication, and its writer sees it. A publication whose stores are all performed ends: its writes count as
published and a FENCE.rel's GS falls. An advance of a Cistern counter whose own bundle has read the counter, if it reads it (R24), adds its
amount and GS falls; one that would pass 2^64 - 1 changes no counter and is reported with the handle. -/
def Obligations.PublicationEvents : Prop :=
  (∀ (s : State) (pub i : Nat) (p : Pub) (t : Store), s.MemOk → s.pubs.find? (fun q => q.id = pub) = some p → p.stores[i]? = some t →
    s.storeReady p t = true →
    (t.place = .hbm ∧ (t.bytes.length = 64 ∨ s.lineOk t.addr = true) ∧ (s.raiseTree t.addr).isSome = true) ∨
      t.place = .host ∨ (∃ c, t.place = .s c) →
    ∃ u : State, exec (.storePerformed pub i) s = .next u ∧ u.homeBytes t.place t.addr t.bytes.length = t.bytes ∧
      (∀ q b, q ≠ t.place ∨ b < t.addr ∨ t.addr + t.bytes.length ≤ b → u.homeByte q b = s.homeByte q b) ∧
      u.pubs.find? (fun q => q.id = pub) = some { p with stores := p.stores.filter (fun x => x != t) } ∧
      t.id ∈ (u.ctx p.who).vis ∧ (s.ctx p.who).SameRegs (u.ctx p.who)) ∧
  (∀ (s : State) (pub : Nat) (p : Pub), s.pubs.find? (fun q => q.id = pub) = some p →
    (∀ q ∈ s.pubs, q.who = p.who → q.id ≤ p.id → q.stores = []) →
    ∃ u : State, exec (.publicationComplete pub) s = .next u ∧ s.SameBytes u ∧ u.pubs = s.pubs.filter (fun q => q.id != p.id) ∧
      (∀ x ∈ u.hist, x.id ∈ p.writes → (p.scope.narrow x.place.widest).code ≤ x.scope.code) ∧
      u.ctx p.who = (if p.fence then { s.ctx p.who with counts := (s.ctx p.who).counts.less .gs } else s.ctx p.who)) ∧
  (∀ (s : State) (i : Nat) (a : Advance) (w : Who) (d x : Nat), s.advances[i]? = some a → a.key = .cistern d x → a.who = some w →
    (∀ b ∈ s.advances.take i, b.who = a.who → b.key ≠ a.key) → (∀ q ∈ s.pubs, a.pub ≠ some q.id) →
    s.fencesDone w a.rel = true → s.flowReady (.advance a.rel) = true → s.readBefore a = false →
    ∃ u : State, exec (.counterAdvance i) s = .next u ∧ u.advances = s.advances.eraseIdx i ∧ s.SameBytes u ∧
      (u.ctx w).counts = (s.ctx w).counts.less .gs ∧ (s.ctx w).SameRegs (u.ctx w) ∧
      (∀ k, k ≠ a.key → u.ctrValue k = s.ctrValue k) ∧
      (s.ctrValue a.key + a.amount < 2 ^ 64 → u.ctrValue a.key = s.ctrValue a.key + a.amount ∧
        (u.ctx w).reports = (s.ctx w).reports) ∧
      (2 ^ 64 ≤ s.ctrValue a.key + a.amount → u.ctrValue a.key = s.ctrValue a.key ∧ ((s.ctx w).terminating = none →
        (u.ctx w).reports = (s.ctx w).reports ++ [⟨0x12, a.handle⟩])))

/-- GL_RETURN (R18, R23, R103, R119, R120). An operation that may return leaves its context and GL falls. One that brings a fault writes no
register and reports it. A value for g(d) lands, with its sensitivity, unless a later write has dropped it; CAS, CASL and PROBE land a word
and a predicate. A load of memory whose bytes no write of another agent that its context need not see yet has reached (R101, R115) brings
for each byte what rule 1 or 2 of R115 fixes, else what the newest of the writes that its context sees has left there: to g(d) for one
unit, and to v(d) or q(d) for any number of units, each at its offset, with the load's FMT. The sensitivity is log 62's. CREAD brings its counter's value. With acq a
new phase begins. An operation on a flow to another package leaves only while the flow's link is open (R227, R246).

A PROBE fill (R105, R106, R340), where every memory is canonical: where the block reads without failure, its 256 bytes stand at the slot's
data, F is cleared in the entry as it stands and no other bit of it, and every context that waits on it loses its wait and one GL for each; no other memory changes. -/
def Obligations.ReturnsAndFills : Prop :=
  (∀ (s : State) (core : Nat) (ctx : BitVec 2) (i : Nat) (o : VlOp),
    let w : Who := ⟨core, ctx.toNat⟩
    let c := s.ctx w
    let acq : Nat := if o.ord.getLsbD 0 then 1 else 0
    let left (u : State) : Prop := (∀ x ∈ (u.ctx w).ops, x.id ≠ o.id) ∧ (u.ctx w).counts = c.counts.less .gl ∧ s.SameBytes u
    let lands (u : State) (d : BitVec 5) (v : Word) (z : Sens) : Prop := left u ∧ (u.ctx w).phase = c.phase + acq ∧
      (o.dropped.contains (.g d) = false → d ≠ 0 → (u.ctx w).readG d = ⟨v, z⟩) ∧
      (o.dropped.contains (.g d) = true → (u.ctx w).g = c.g) ∧
      (∀ r, r ≠ d → (u.ctx w).readG r = c.readG r) ∧ (u.ctx w).v = c.v ∧ (u.ctx w).p = c.p
    c.ops[i]? = some o → c.opReady i = true → s.storesArrived w o = true → s.flowReady (o.item w) = true →
      s.linksOpen w o = true → o.wait = 0 →
    (∀ regs f rels seen, o.result = some ⟨regs, some f, rels, seen⟩ → (∀ p a x fn v, o.kind ≠ .red p a x fn v) →
      ∃ u : State, exec (.glReturn core ctx i) s = .next u ∧ left u ∧ c.SameRegs (u.ctx w) ∧
        (c.terminating = none → (u.ctx w).reports = c.reports ++ [f])) ∧
    (∀ d v rels seen, o.result = some ⟨[(.g d, v, 0)], none, rels, seen⟩ → (∀ p a x fn v, o.kind ≠ .red p a x fn v) →
      ∃ u : State, exec (.glReturn core ctx i) s = .next u ∧ lands u d (v.setWidth 64) o.sens) ∧
    (∀ d v q b rels seen, o.result = some ⟨[(.g d, v, 0), (.p q, b, 0)], none, rels, seen⟩ → (∀ p a x fn v, o.kind ≠ .red p a x fn v) →
      o.dropped = [] → d ≠ 0 → q ≠ 0 →
      ∃ u : State, exec (.glReturn core ctx i) s = .next u ∧ left u ∧ (u.ctx w).phase = c.phase + acq ∧
        (u.ctx w).readG d = ⟨v.setWidth 64, o.sens⟩ ∧ (u.ctx w).readP q = ⟨b.getLsbD 0, o.sens⟩ ∧
        (∀ r, r ≠ d → (u.ctx w).readG r = c.readG r) ∧ (∀ r, r ≠ q → (u.ctx w).readP r = c.readP r) ∧
        (u.ctx w).v = c.v ∧ (u.ctx w).m = c.m ∧ (u.ctx w).q = c.q) ∧
    let at' (t : Write) (p : Place) (a : Nat) : Bool := t.place = p && t.addr ≤ a && a < t.addr + t.bytes.length
    let settled (x : LoadUnit) : Prop := s.rangeOk x.place x.addr x.len = true ∧
      ∀ t ∈ s.hist, t.place = x.place → t.addr < x.addr + x.len → x.addr < t.addr + t.bytes.length →
        t.seenBy w o.vis o.born = true ∨ t.reaches core = false
    let stands (p : Place) (a : Nat) : Byte :=
      let ws := s.hist.filter (fun t => at' t p a)
      match ws.find? (fun t => t.seenBy w o.vis o.born), ws.getLast? with
      | some t, _ => t.bytes.getD (a - t.addr) 0
      | none, some t => t.prev.getD (a - t.addr) 0
      | none, none => s.homeByte p a
    let byte (x : LoadUnit) (j : Nat) : Byte :=
      match x.fixed.getD j none, c.phaseBytes.find? (fun b => b.phase = o.phase && !b.own && b.place = x.place && b.addr = x.addr + j) with
      | some b, _ => b.1
      | none, some b => b.val
      | none, none => stands x.place (x.addr + j)
    let unit (x : LoadUnit) : Nat := leNat ((List.range x.len).map (byte x))
    (∀ x d, o.result = none → o.kind = .load [x] (.g d) 0 → x.offset = 0 → x.len ≤ 8 → settled x →
      ∃ u : State, exec (.glReturn core ctx i) s = .next u ∧ lands u d (BitVec.ofNat 64 (unit x)) (s.unitSens o [x])) ∧
    (∀ (us : List LoadUnit) (d : Reg) (fmt : Tag), o.result = none → o.kind = .load us d fmt → o.dropped = [] →
      (∀ x ∈ us, settled x) → us.Pairwise (fun x y => x.place ≠ y.place ∨ x.addr + x.len ≤ y.addr ∨ y.addr + y.len ≤ x.addr) →
      let val := (us.map (fun x => unit x * 2 ^ (8 * x.offset))).sum
      (∀ r, d = .v r → ∃ u : State, exec (.glReturn core ctx i) s = .next u ∧ left u ∧ (u.ctx w).phase = c.phase + acq ∧
        (u.ctx w).fileV r = ⟨BitVec.ofNat 2048 val, fmt, s.unitSens o us⟩ ∧ (∀ x, x ≠ r → (u.ctx w).fileV x = c.fileV x) ∧
        (u.ctx w).g = c.g ∧ (u.ctx w).p = c.p ∧ (u.ctx w).m = c.m ∧ (u.ctx w).q = c.q) ∧
      (∀ r, d = .q r → ∃ u : State, exec (.glReturn core ctx i) s = .next u ∧ left u ∧ (u.ctx w).phase = c.phase + acq ∧
        (u.ctx w).readQ r = ⟨BitVec.ofNat 256 val, fmt, s.unitSens o us⟩ ∧ (∀ x, x ≠ r → (u.ctx w).readQ x = c.readQ x) ∧
        (u.ctx w).g = c.g ∧ (u.ctx w).v = c.v ∧ (u.ctx w).p = c.p ∧ (u.ctx w).m = c.m)) ∧
    (∀ die k d, o.result = none → o.kind = .cread (.cistern die k) (.g d) →
      ∃ u : State, exec (.glReturn core ctx i) s = .next u ∧ lands u d (BitVec.ofNat 64 (s.ctrValue (.cistern die k))) .pub)) ∧
  (∀ (s : State) (i : Nat) (f : Fill), s.MemOk → s.fills[i]? = some f → s.rangeOk f.place f.addr 256 = true →
    f.data + 256 ≤ f.table ∨ f.table + 8 ≤ f.data →
    s.flowReady (.fill f.cluster f.table f.born) = true →
    (∀ d ∈ s.fillDests f, d < 1024 → s.flowOpen (s.ctx f.who).part d = true) →
    let waits (o : VlOp) : Bool := match o.kind with
      | .fillWait cl t _ => cl = f.cluster && t = f.table
      | _ => false
    ∃ u : State, exec (.probeFill i) s = .next u ∧ u.fills = s.fills.eraseIdx i ∧
      u.homeBytes (.s f.cluster) f.data 256 = s.homeBytes f.place f.addr 256 ∧
      (let e := leNat (s.homeBytes (.s f.cluster) f.table 8)
       u.homeBytes (.s f.cluster) f.table 8 = leBytes 8 (e - e / 2 ^ 62 % 2 * 2 ^ 62)) ∧
      (∀ q b, q ≠ .s f.cluster ∨ ((b < f.data ∨ f.data + 256 ≤ b) ∧ (b < f.table ∨ f.table + 8 ≤ b)) →
        u.homeByte q b = s.homeByte q b) ∧
      (∀ w, (s.ctx w).SameRegs (u.ctx w) ∧ (u.ctx w).ops = (s.ctx w).ops.filter (fun o => !waits o) ∧
        (u.ctx w).counts.gl = (s.ctx w).counts.gl - ((s.ctx w).ops.filter waits).length))

/-! ### How engines complete -/

/-- The special values of the functions of SFX in bf16, f16 and f32 (R172): each function at +0, -0, +infinity and -infinity, with its
flags, whatever the rounding mode and the form of gelu; and a NaN gives the canonical NaN and no flag.

SWEEP_COMPLETE on the last row of a sweep from X to X without a counter (R171, R172, R356), where X is canonical, the row is not begun and the
core is not frozen for a pre-emption (R211): each element becomes the function of its source, no other byte of X, Y or W changes, the flags
are joined to FLAGS, the sweep leaves the queue and SF falls. Where the row meets a line that has failed or is of another format, it is an
engine failure of code 2 with the first such address of the row and the bytes of the rows before it, and nothing of the row is written
(R170). -/
def Obligations.SweepsComplete : Prop :=
  (∀ (rm : Nat) (gelu : Bool), ∀ e ∈ [(bf16Fmt, 0x3F80, 0x3F00, 0x7F80, 0x7FC0, 0x8000), (f16Fmt, 0x3C00, 0x3800, 0x7C00, 0x7E00, 0x8000),
      (f32Fmt, 0x3F800000, 0x3F000000, 0x7F800000, 0x7FC00000, 0x80000000)],
    let (f, one, half, inf, nan, neg) := e
    let none' : BitVec 7 := 0
    (∀ r ∈ [(0, (one, none'), (one, none'), (inf, none'), (0, none')),
        (1, (one, none'), (one, none'), (inf, none'), (0, none')),
        (2, (neg + inf, flDZ), (neg + inf, flDZ), (inf, none'), (nan, flIV)),
        (3, (inf, flDZ), (neg + inf, flDZ), (0, none'), (neg, none')),
        (4, (inf, flDZ), (neg + inf, flDZ), (0, none'), (nan, flIV)),
        (5, (half, none'), (half, none'), (one, none'), (0, none')),
        (6, (0, none'), (neg, none'), (one, none'), (neg + one, none')),
        (7, (0, none'), (neg, none'), (inf, none'), (neg, none')),
        (8, (0, none'), (neg, none'), (inf, none'), (neg, none'))],
      sfxValue f rm r.1 gelu 0 = r.2.1 ∧ sfxValue f rm r.1 gelu neg = r.2.2.1 ∧ sfxValue f rm r.1 gelu inf = r.2.2.2.1 ∧
        sfxValue f rm r.1 gelu (neg + inf) = r.2.2.2.2) ∧
    (∀ fn w, fn < 9 → f.read w = .nan → sfxValue f rm fn gelu w = (nan, 0))) ∧
  (∀ (s : State) (core : Nat) (c : SweepCmd) (rest : List SweepCmd) (f : FFmt),
    let w : Who := ⟨core, c.ctx⟩
    let k := s.core core
    let j := c.rows - 1
    let size := f.width / 8
    let src := c.src + j * c.stride
    let dst := c.dst + j * c.stride
    k.x.wf = true → k.sweeps = c :: rest → c.srcS = false → c.dstS = false → 1 ≤ c.rows → c.next = j → c.completion = none → ffmt c.ty = some f →
    c.ty ∈ [8, 9, 10] → c.fn < 9 → s.coreFrozen core = false → c.read = [] → c.out = none → c.sens = .pub → 1 ≤ c.elems →
    let good (l : Nat) : Prop := k.bufOk false (256 * l) 1 = true ∧
      ((k.xtags.get LineTag.reset l).fmt = 0 ∨ (k.xtags.get LineTag.reset l).fmt = c.ty)
    (∀ l, src / 256 ≤ l → 256 * l < src + c.elems * size → ¬ good l → (∀ x, src / 256 ≤ x → x < l → good x) →
      ∃ v : State, exec (.sweepComplete core) s = .next (v.engineFailure w .sf 2
          (if k.bufOk false (256 * l) 1 then 0x04 else 0x0F) 0 (j * (c.elems * size)) (max src (256 * l))) ∧
        (v.core core).sweeps = rest ∧ (v.core core).x = k.x ∧ (v.ctx w).counts = (s.ctx w).counts ∧ (s.ctx w).SameRegs (v.ctx w)) ∧
    ((∀ l, src / 256 ≤ l → 256 * l < src + c.elems * size → good l) →
    let elem (n : Nat) : Nat × BitVec 7 := sfxValue f (c.frm.toNat % 4) c.fn c.gelu (k.x.num (src + n * size) size)
    ∃ u : State, exec (.sweepComplete core) s = .next u ∧ (u.core core).sweeps = rest ∧
      (∀ n, n < c.elems → (u.core core).x.num (dst + n * size) size = (elem n).1 % 2 ^ (8 * size)) ∧
      (∀ i, i < dst ∨ dst + c.elems * size ≤ i → (u.core core).x.byte i = k.x.byte i) ∧
      (u.core core).y = k.y ∧ (u.core core).w = k.w ∧ (u.ctx w).counts = (s.ctx w).counts.less .sf ∧
      (s.ctx w).SameRegs (u.ctx w) ∧
      (∀ i, (u.ctx w).flags.getLsbD i = true ↔ (s.ctx w).flags.getLsbD i = true ∨ c.flags.getLsbD i = true ∨
        ∃ n, n < c.elems ∧ (elem n).2.getLsbD i = true)))

/-- What each rank of a collective receives (R81, R176): in s32 the sum over the ranks of each element modulo 2^32, whole for ar and its own
part for rs; in f32 the same sums with one rounding to nearest even for each addition in rank order; for ag the ranks' sends in rank order;
for bc rank 0's.

COLL_COMPLETE (R135, R170, R177, R215). An instance of one rank, its turn come, its partition neither pre-empted nor frozen, its send buffer
read and its receive buffer written, line by line, and the way to its counter free (R136), leaves the machine and CP falls. A read that waits
for a translation keeps the bytes that were read before it (R217). An instance whose ranks differ in operation, type
or count fails: it leaves and each local participant's CP falls. One that lacks a rank, or waits for an earlier instance of its group, stays
as it is while its ports are up; with a port down its part of this package fails at once with cause 0x10 (R227; log 69). -/
def Obligations.CollectivesComplete : Prop :=
  (∀ (n rank size : Nat) (xs : List (List Nat)), xs.length = size → rank < size → 1 ≤ n →
    let sends (k : Nat) : List (List Byte) := (xs.map (fun l => (l.take k).flatMap (leBytes 4)))
    let whole (k : Nat) : Prop := ∀ l ∈ xs, l.length = k ∧ ∀ v ∈ l, v < 2 ^ 32
    let sum (j : Nat) : Nat := (xs.map (fun l => l.getD j 0)).sum % 2 ^ 32
    let fsum (j : Nat) : Nat := match xs.map (fun l => l.getD j 0) with
      | [] => 0
      | v :: vs => vs.foldl (fun a b => (f32Fmt.add 0 a b).1) v
    (whole n → collResult 0 2 n rank (sends n) = (List.range n).flatMap (fun j => leBytes 4 (sum j))) ∧
    (whole (size * n) → collResult 1 2 n rank (sends (size * n)) = (List.range n).flatMap (fun j => leBytes 4 (sum (rank * n + j)))) ∧
    (whole n → collResult 0 0 n rank (sends n) = (List.range n).flatMap (fun j => leBytes 4 (fsum j))) ∧
    (∀ ty, collResult 2 ty n rank (sends n) = (sends n).flatten) ∧
    (∀ ty, collResult 3 ty n rank (sends n) = ((xs.headD []).take n).flatMap (leBytes 4))) ∧
  (∀ (s : State) (i : Nat) (c : Coll), s.colls[i]? = some c →
    (∀ (p : CollPart) (w : Who) (t v : State) (bs : List Byte) (z : List Sens) (ids wr : List Nat) (done : Nat),
      c.size = 1 → c.parts = [p] → c.got = false → p.who = some w → p.failed = false → p.rank = 0 → p.done = 0 →
      s.collRuns c = true →
      (∀ d ∈ s.colls, d.part = c.part → d.group = c.group → c.index ≤ d.index) → s.collPeers c = [] →
      let q : CollPart := { p with bytes := bs, senses := z, sent := ids }
      let all : Coll := { c with parts := [q], got := true }
      let read : State := { t with colls := t.colls.modify i (fun _ => all) }
      s.readSend (s.partCtx w p) (s.collAway c w.core) (recvLen 2 0 (2 ^ 32) 1) (sendLen p.op p.ty p.n 1) p = ⟨t, q, false, none⟩ →
      bs.length = sendLen p.op p.ty p.n 1 → t.colls = s.colls → t.segmentDests all w q = [] → read.segmentsCross all = false →
      v.collMayEnd all = true →
      read.writeRecv (read.partCtx w q) (collTag p.ty) p.recv 0 (recvLen 2 0 (2 ^ 32) 1) (collResult p.op p.ty p.n 0 [bs])
        (collSens p.op p.ty p.n 0 [z]) = ⟨v, wr, done, false, none⟩ → v.colls = read.colls →
      ∃ u : State, exec (.collComplete i) s = .next u ∧ u.colls = v.colls.eraseIdx i ∧
        (u.ctx w).counts = (v.ctx w).counts.less .cp ∧ (v.ctx w).SameRegs (u.ctx w)) ∧
    (∀ (p : CollPart) (w : Who) (t : State) (bs : List Byte) (z : List Sens) (ids : List Nat), c.size = 1 → c.parts = [p] →
      c.got = false → p.who = some w → s.collReady c = true → s.collPeers c = [] →
      let q : CollPart := { p with bytes := bs, senses := z, sent := ids }
      s.readSend (s.partCtx w p) (s.collAway c w.core) (recvLen 2 0 (2 ^ 32) 1) (p.sends 1) p = ⟨t, q, true, none⟩ →
      t.colls = s.colls → bs.length < p.sends 1 →
      ∃ u : State, exec (.collComplete i) s = .next u ∧ u.colls = s.colls.modify i (fun c => { c with parts := [q] }) ∧
        (u.ctx w).counts = (t.ctx w).counts) ∧
    (∀ (p q : CollPart) (w : Who), s.collReady c = true → c.got = false → c.parts = [p, q] → p.who = some w → q.who = none →
      p.op ≠ q.op ∨ p.ty ≠ q.ty ∨ p.n ≠ q.n →
      ∃ u : State, exec (.collComplete i) s = .next u ∧ u.colls = s.colls.eraseIdx i ∧ (u.ctx w).counts = (s.ctx w).counts.less .cp ∧
        (s.ctx w).SameRegs (u.ctx w)) ∧
    (∀ (p : CollPart) (w : Who), s.collRuns c = true → s.portClosed c = true → c.locals = [(w, p)] → p.failed = false →
      ∃ u : State, exec (.collComplete i) s = .next u ∧ (u.ctx w).counts = (s.ctx w).counts.less .cp ∧ (s.ctx w).SameRegs (u.ctx w) ∧
        u.colls = (if c.parts.length = c.size then s.colls.eraseIdx i else s.colls.modify i (fun c =>
          { c with parts := c.parts.map (fun q => if q.rank = p.rank then { q with failed := true } else q) }))) ∧
    (s.collReady c = false → (s.collRuns c && s.portClosed c) = false → exec (.collComplete i) s = .next s))

/-- COPY_COMPLETE and ABSORB_COMPLETE on one row from X to Y, where Y is canonical (R134, R164, R166, R232): every byte of the row stands at its destination, no
other byte of X, Y or W changes, the command leaves its channel, its counter advances by its increment unless it is NC, and CP falls. An
ABSORB's bytes are hashed after those before them and count in BYTES. The core is not frozen for a pre-emption (R211), and the way to the
counter is free (R136). -/
def Obligations.CopiesComplete : Prop :=
  ∀ (s : State) (core : Nat) (ch : BitVec 2) (cmd : CopyCmd) (rest : List CopyCmd) (d x incr : Nat) (h : Word),
    let w : Who := ⟨core, cmd.ctx⟩
    let k := s.core core
    let c := s.ctx w
    let sh := cmd.shape
    k.y.wf = true → k.chan ch.toNat = cmd :: rest → cmd.copied = false → cmd.done = 0 → cmd.ids = [] → cmd.chained = none →
    sh.gather = none → sh.srcSpace = 0 → sh.dstSpace = 1 → sh.n1 = 1 → sh.n2 = 1 → 1 ≤ sh.len →
    sh.src + sh.len ≤ 262144 → sh.dst + sh.len ≤ 131072 → k.bufOk false sh.src sh.len = true →
    cmd.completion = some ⟨.cistern d x, h, incr⟩ → s.ctrValue (.cistern d x) + incr < 2 ^ 64 → s.coreFrozen core = false →
    cmd.got = CopyGot.empty → s.advanceMayTravel w c.part ⟨.cistern d x, h, incr⟩ = true →
    let moved (u : State) : Prop :=
      (∀ i, i < sh.len → (u.core core).y.byte (sh.dst + i) = k.x.byte (sh.src + i)) ∧
      (∀ j, j < sh.dst ∨ sh.dst + sh.len ≤ j → (u.core core).y.byte j = k.y.byte j) ∧
      (u.core core).x = k.x ∧ (u.core core).w = k.w ∧ (u.core core).chan ch.toNat = rest ∧
      (u.ctx w).counts = c.counts.less .cp ∧ c.SameRegs (u.ctx w) ∧ (u.ctx w).flags = c.flags ∧
      u.ctrValue (.cistern d x) = s.ctrValue (.cistern d x) + (if cmd.nc then 0 else incr)
    (cmd.absorb = false → ∃ u : State, exec (.copyComplete core ch) s = .next u ∧ moved u) ∧
    (∀ z, cmd.absorb = true → cmd.nc = false → cmd.input = [] → (∀ e ∈ k.absorbs cmd.ctx, cmd.id ≤ e.2.id) →
      c.session = some z → z.failed = none → z.stopped = false →
      ∃ u z', exec (.absorbComplete core ch) s = .next u ∧ moved u ∧ (u.ctx w).session = some z' ∧ z'.failed = none ∧
        z'.hashed = z.hashed ++ k.x.bytes sh.src sh.len ∧
        (u.ctx w).sealBytes = c.sealBytes + BitVec.ofNat 40 sh.len)

/-- The seal record, key rotation and its sweep (R233, R235, R236, R238, R324). A closing session whose ABSORBs have all completed and whose
record is written ends: STATE 0, its status recorded, the slot's sessions counted, CP down. The record has 4,096 bytes with all the fields of
R235, its zeros and the signature over its first 288 bytes (the cause byte of a record that is not COMPLETE: log 96). KEY_INSTALL, for the slot of the first KROT to arrive, makes the next version of that slot current and the old one previous, and CP falls; a memory key begins its sweep, and
any other advances its counter at once; a KROT that waits for a sweep of its slot lets later ones pass (State.nextKrot: log 68).
REENCRYPTION_SWEEP moves every line that its granule encrypts under the slot from the previous version to the current one (a line whose
counters cannot rise is left behind and reads no more, R225), ends the previous version and advances the counter; no byte changes and the
lines of other slots stay as they are. A completing command's advance finds its way to the counter free (R136). -/
def Obligations.SealAndKeyEvents : Prop :=
  (∀ (s : State) (core : Nat) (ctx : BitVec 2) (z : Session) (r : Written) (v : State),
    let w : Who := ⟨core, ctx.toNat⟩
    let c := s.ctx w
    let st := s.sealStatus c.part z
    let n := (s.key z.slot.toNat).sessions + 1
    let t := s.modKey z.slot.toNat (fun k => { k with sessions := n })
    let e : EngCtx := ⟨w, c.part, c.hashKey, [], c.vis, z.born⟩
    c.session = some z → c.sealState = 2 → (s.core core).absorbs ctx.toNat = [] → s.advanceMayTravel w c.part z.completion = true →
    engineStoreAll e 4 (t.recordSens e z) 80 t z.record (s.sealRecord w z st.1 st.2 n) ⟨[], 0⟩ = (.ok () v, r) →
    ∃ u : State, exec (.sealRecordWrite core ctx) s = .next u ∧ (u.ctx w).session = none ∧ (u.ctx w).sealState = 0 ∧
      (u.ctx w).sealLast = BitVec.ofNat 2 st.1 ∧ (u.ctx w).sealCause = (if st.1 = 2 then st.2 else 0) ∧
      (u.ctx w).counts = (if z.ended.isSome then (v.ctx w).counts else (v.ctx w).counts.less .cp) ∧
      (∀ j, (u.key j).sessions = (v.key j).sessions)) ∧
  (∀ (s : State) (w : Who) (z : Session) (status n : Nat) (cause : BitVec 8), z.metaBytes.length = 64 → status < 4 → n < 2 ^ 64 →
    let r := s.sealRecord w z status cause n
    let c := s.ctx w
    let field (o len : Nat) : Nat := leNat ((r.drop o).take len)
    r.length = 4096 ∧ field 0 2 = 1 ∧ field 2 1 = status ∧ field 4 1 = c.part % 256 ∧ field 5 1 = cause.toNat ∧
      field 6 2 = c.kslot.toNat ∧ field 8 2 = c.nestId.toNat ∧ field 10 2 = z.slot.toNat ∧ field 12 4 = 0 ∧
      field 16 8 = c.taskId.toNat ∧ field 24 8 = c.sealBytes.toNat ∧ field 32 8 = n ∧ field 40 24 = 0 ∧
      (r.drop 64).take 48 = (if z.model = 0xFFFF then List.replicate 48 0 else bytes384 (s.key z.model.toNat).measurement) ∧
      (r.drop 112).take 48 = s.firmware ∧ (r.drop 160).take 64 = z.metaBytes ∧ field 272 16 = 0 ∧ field 292 4 = 0 ∧
      (r.drop 296).take (field 288 4) = (List.range (field 288 4)).map (Config.signatureByte z.slot.toNat (r.take 288)) ∧
      (∀ i, 296 + field 288 4 ≤ i → r.getD i 0 = 0) ∧
      (status = 3 → field 3 1 = 0 ∧ field 224 48 = 0 ∧ field 288 4 = 0) ∧
      (status ≠ 3 → field 3 1 = (if (s.key z.slot.toNat).alg then 2 else 1) ∧ (r.drop 224).take 48 = sha384 z.hashed ∧
        field 288 4 = (if (s.key z.slot.toNat).alg then 96 else 3309))) ∧
  (∀ (s : State) (slot core x part d i n stamp : Nat) (k : BitVec 13) (h task : Word),
    let comp : Completion := ⟨.cistern d i, h, n⟩
    let w : Who := ⟨core, x⟩
    let q := s.key slot
    let installed (m : MiscCmd) : Bool := match m with
      | .krot _ _ j _ inst _ _ => j.toNat = slot && inst
      | _ => false
    let same (u : State) : Prop := (∀ p a, u.homeByte p a = s.homeByte p a) ∧ (s.ctx w).SameRegs (u.ctx w)
    k.toNat = slot → s.ctrValue (.cistern d i) + n < 2 ^ 64 →
    (s.nextKrot = some (core, .krot x part k comp false stamp task) → (q.ty ≠ 1 → s.advanceMayTravel w part comp = true) →
      ∃ u : State, exec (.keyInstall slot) s = .next u ∧ same u ∧ (u.key slot).ver = q.ver + 1 ∧ (u.key slot).pver = q.ver ∧
        (u.key slot).pv = true ∧ (u.key slot).sweep = decide (q.ty = 1) ∧ (u.ctx w).counts = (s.ctx w).counts.less .cp ∧
        u.ctrValue (.cistern d i) = s.ctrValue (.cistern d i) + (if q.ty = 1 then 0 else n)) ∧
    (s.findMisc installed = some (core, .krot x part k comp true stamp task) → q.sweep = true → s.advanceMayTravel w part comp = true →
      ∃ u : State, exec (.reencryptionSweep slot) s = .next u ∧ same u ∧ (u.key slot).sweep = false ∧ (u.key slot).pv = false ∧
        (u.key slot).ver = q.ver ∧ u.ctrValue (.cistern d i) = s.ctrValue (.cistern d i) + n ∧
        (∀ line m, s.lineKeys.find? line = some m → granuleKey (s.granule (line * 64)) = slot → m.ver = q.pver → m.ver ≠ q.ver →
          s.lineOk (line * 64) = true → (∀ m', (line, m') ∈ s.lineKeys → m' = m) →
          u.lineKeys.find? line = some { m with ver := q.ver } ∨
            u.lineKeys.find? line = some m ∧ u.lineOk (line * 64) = false) ∧
        (∀ line m, s.lineKeys = [(line, m)] → granuleKey (s.granule (line * 64)) = slot → m.ver = q.pver → m.ver ≠ q.ver →
          s.lineOk (line * 64) = true → (s.raiseTree (line * 64)).isSome = true →
          u.lineKeys = [(line, { m with ver := q.ver })]) ∧
        (∀ line m, s.lineKeys.find? line = some m → granuleKey (s.granule (line * 64)) ≠ slot →
          (∀ m', (line, m') ∈ s.lineKeys → m' = m) → u.lineKeys.find? line = some m)))

/-- SCRUB, CKPT and RSTR in the engine (R239 to R242, R308, R309, R345, R347). A SCRUB without a range clears the buffers with their line tags,
the planes (with W) and the window that it names and nothing else (R59, R138), drops the grant it names and completes; one of a range alone
writes its lines of zeros and nothing else. A CKPT whose ranges are read and whose image can be written writes an image of 1,296 bytes more
than its data, with the header of R240 (a model key version of 0 where it names no model: log 87) and the data XORed with its keystream, and
completes. An RSTR whose image verifies completes when its ranges are written; one whose header, tag or measurements fail is an engine
failure with cause 0x0E or 0x0F that has written nothing. Each leaves the machine, CP falls, and the counter of one that completes advances
(R134); its advance finds its way free (R136). -/
def Obligations.ScrubAndImageEvents : Prop :=
  ∀ (s : State) (core : Nat) (ctx : BitVec 2),
    let w : Who := ⟨core, ctx.toNat⟩
    let c := s.ctx w
    let k := s.core core
    let gone (u : State) (m : MiscCmd) : Prop := (u.core core).misc = dropFirst (fun x => x = m) k.misc ∧
      (u.ctx w).counts = c.counts.less .cp ∧ c.SameRegs (u.ctx w)
    let done (u v : State) (m : MiscCmd) : Prop := (u.core core).misc = dropFirst (fun x => x = m) (v.core core).misc ∧
      (u.ctx w).counts = (v.ctx w).counts.less .cp
    let completed (u v : State) (d i n : Nat) : Prop := (∀ p a, u.homeByte p a = v.homeByte p a) ∧
      u.ctrValue (.cistern d i) = v.ctrValue (.cistern d i) + n
    let failed (u v : State) (m : MiscCmd) (cause : Nat) (addr : Nat) : Prop := ∃ t : State, u = t.engineFailure w .cp 1 cause 0 0 addr ∧
      (t.core core).misc = dropFirst (fun x => x = m) (v.core core).misc ∧ ∀ p a, t.homeByte p a = s.homeByte p a
    (∀ f drop d i n h born, let comp : Completion := ⟨.cistern d i, h, n⟩
      let m : MiscCmd := .scrub ctx.toNat f 0 0 drop comp born
      let win := s.window core c.part
      let inside (b : Nat) : Prop := win.1 / 8192 ≤ b / 256 % 512 ∧ b / 256 % 512 < (win.1 + win.2) / 8192
      k.misc.find? (fun m => match m with
        | .scrub x .. => x = ctx.toNat
        | _ => false) = some m → s.ctrValue (.cistern d i) + n < 2 ^ 64 → s.advanceMayTravel w c.part comp = true →
      ∃ u : State, exec (.scrubComplete core ctx) s = .next u ∧ gone u m ∧
        (∀ l, (u.core core).xtags.get LineTag.reset l = (if f.getLsbD 0 then LineTag.reset else k.xtags.get LineTag.reset l) ∧
          (u.core core).ytags.get LineTag.reset l = (if f.getLsbD 1 then LineTag.reset else k.ytags.get LineTag.reset l)) ∧
        (u.core core).active = (if f.getLsbD 2 then Plane.reset else k.active) ∧
        (u.core core).shadow = (if f.getLsbD 2 then Plane.reset else k.shadow) ∧
        (f.getLsbD 3 = true → ∀ l, inside (256 * l) → (u.cluster (clusterOf core)).stags.get LineTag.reset l = LineTag.reset) ∧
        u.ctrValue (.cistern d i) = s.ctrValue (.cistern d i) + n ∧
        (∀ a, (u.core core).x.byte a = (if f.getLsbD 0 then 0 else k.x.byte a)) ∧
        (∀ a, (u.core core).y.byte a = (if f.getLsbD 1 then 0 else k.y.byte a)) ∧
        (∀ a, (u.core core).w.byte a = (if f.getLsbD 2 then 0 else k.w.byte a)) ∧
        (f.getLsbD 3 = true → ∀ a, inside a → u.homeByte (.s (clusterOf core)) a = 0) ∧
        (∀ p a, f.getLsbD 3 = false ∨ p ≠ .s (clusterOf core) ∨ ¬ inside a → u.homeByte p a = s.homeByte p a) ∧
        (∀ slot tenant, drop = some (slot, tenant) →
          (u.key slot.toNat).grants = (s.key slot.toNat).grants.filter (fun g => g != tenant))) ∧
    (∀ (a len d i n : Nat) (h : Word) (born : Nat) (ids more : List Nat) (last : Nat) (v : State),
      let comp : Completion := ⟨.cistern d i, h, n⟩
      let m : MiscCmd := .scrub ctx.toNat 16 a len none comp born
      k.misc.find? (fun m => match m with
        | .scrub x .. => x = ctx.toNat
        | _ => false) = some m → s.advanceMayTravel w c.part comp = true →
      zeroLines ⟨w, c.part, c.hashKey, [], c.vis, born⟩ (len / 64) (s.modCore core (fun k => k)) a [] = (.ok ids v, more, last) →
      v.ctrValue (.cistern d i) + n < 2 ^ 64 →
      ∃ u : State, exec (.scrubComplete core ctx) s = .next u ∧ done u v m ∧ completed u v d i n) ∧
    (∀ (list n' img : Nat) (slot : BitVec 13) (model : Option (BitVec 13)) (tenant : BitVec 13) (vers : CkptVers) (serial : Nat)
      (d i n : Nat) (h hk : Word) (own : List Store) (vis : List Nat) (born : Nat) (lb plain : List Byte) (z : Sens) (u1 u2 v : State)
      (r : Written),
      let comp : Completion := ⟨.cistern d i, h, n⟩
      let m : MiscCmd := .ckpt ctx.toNat list n' img slot model tenant vers serial comp hk own vis born
      let e : EngCtx := ⟨w, c.part, hk, own, vis, born⟩
      let bs := u2.ckptImage c.part n' tenant slot model vers serial lb plain
      k.misc.find? (fun m => match m with
        | .ckpt x .. => x = ctx.toNat
        | _ => false) = some m →
      s.advanceMayTravel w c.part comp = true →
      engineLoadAll e 4 (n' + 2) s list (16 * n') [] .pub = .ok (lb, z) u1 →
      readRanges e ((cut16 n' lb).map rangeEntry) u1 [] = .ok plain u2 →
      engineStoreAll e 4 .pub (bs.length / 64 + 2) u2 img bs ⟨[], 0⟩ = (.ok () v, r) →
      v.ctrValue (.cistern d i) + n < 2 ^ 64 →
      ∃ u : State, exec (.ckptComplete core ctx) s = .next u ∧ done u v m ∧ completed u v d i n) ∧
    (∀ (part n : Nat) (slot : BitVec 13) (model : Option (BitVec 13)) (tenant : BitVec 13) (vers : CkptVers) (serial : Nat)
      (lb plain : List Byte),
      1 ≤ n → n ≤ 64 → lb.length = 16 * n → plain.length < 2 ^ 64 → serial < 2 ^ 64 → part < 256 →
      let bs := s.ckptImage part n tenant slot model vers serial lb plain
      let iv := leBytes 8 serial ++ leBytes 4 0
      let field (o len : Nat) : Nat := leNat ((bs.drop o).take len)
      bs.length = 1296 + plain.length ∧ field 0 2 = 1 ∧ field 2 1 = n ∧ field 3 1 = part ∧ field 4 2 = tenant.toNat ∧
        field 6 2 = slot.toNat ∧ field 8 2 = vers.1.toNat ∧ field 10 2 = vers.2.1.toNat ∧
        field 12 2 = (model.map BitVec.toNat).getD 65535 ∧ field 14 2 = (if model.isSome then vers.2.2.toNat else 0) ∧ field 16 8 = serial ∧ field 24 8 = plain.length ∧
        (bs.drop 32).take 48 = s.firmware ∧ (bs.drop 128).take 12 = iv ∧ (bs.drop 256).take (16 * n) = lb ∧
        (bs.drop 1280).take plain.length = streamXor (ckptKeys slot tenant vers serial) iv plain) ∧
    (∀ img tenant d i n h hk own vis born hd z u1,
      let comp : Completion := ⟨.cistern d i, h, n⟩
      let m : MiscCmd := .rstr ctx.toNat img tenant comp hk own vis born
      let e : EngCtx := ⟨w, c.part, hk, own, vis, born⟩
      k.misc.find? (fun m => match m with
        | .rstr x .. => x = ctx.toNat
        | _ => false) = some m → s.advanceMayTravel w c.part comp = true → engineLoadAll e 4 22 s img 1280 [] .pub = .ok (hd, z) u1 →
      (u1.imageKeys c.part tenant hd = none → ∃ u : State, exec (.rstrComplete core ctx) s = .next u ∧ done u u1 m ∧
        failed u u1 m 0x0E img) ∧
      (∀ keys body z2 u2,
        let len := leNat ((hd.drop 24).take 8)
        let model := leNat ((hd.drop 12).take 2)
        let tagOk : Prop := body.drop len = (List.range 16).map (Config.ckptTagByte keys ((hd.drop 128).take 12) hd (body.take len))
        let same : Prop := (hd.drop 32).take 48 = u2.firmware ∧
          (hd.drop 80).take 48 = (if model = 65535 then List.replicate 48 0 else bytes384 (u2.key model).measurement)
        u1.imageKeys c.part tenant hd = some keys →
        engineLoadAll e 4 (len / 64 + 3) u1 (img + 1280) (len + 16) [] .pub = .ok (body, z2) u2 →
        ∃ u : State, exec (.rstrComplete core ctx) s = .next u ∧ (¬ tagOk → done u u2 m ∧ failed u u2 m 0x0F img) ∧
          (tagOk → ¬ same → done u u2 m ∧ failed u u2 m 0x0E img) ∧
          ∀ v r, tagOk → same → writeRanges e ((cut16 (hd.getD 2 0).toNat (hd.drop 256)).map rangeEntry) u2
              (streamXor keys ((hd.drop 128).take 12) (body.take len)) ⟨[], 0⟩ = (.ok () v, r) →
            v.ctrValue (.cistern d i) + n < 2 ^ 64 → done u v m ∧ completed u v d i n))

/-! ### The cycles of a core -/

/-- The events of a core's cycles (R20, R22, R29, R32, R35, R40, R96, R282), on a core that is not frozen for a pre-emption (R210). A nullified
bundle moves the pc past itself and no other thing of its context changes. Where the limiter holds nothing back, a switch to the first ready
context after the one from which the core last issued takes three cycles that are active for no context; the core then stands at that
context, whose block is gone (log 47), and still counts the other as the one that last issued. A limiter freeze and a bank-conflict freeze
change nothing of a context but the count each is named for; a bundle loses a cycle where a core of a higher rank has one of its banks, and
once where two of its own accesses share one (the cycle in which the accesses are presented: log 28), and it is a limiter freeze where the
limiter allows no cycle. A fetch whose reads may travel brings the bundle's lines in. The results whose cycles have passed land in their
context alone. -/
def Obligations.CycleEvents : Prop :=
  ∀ (s : State) (core : Nat),
    let k := s.core core
    let w := s.served core
    let c := s.ctx w
    let others (u : State) (v : Who) : Prop := ∀ x : Who, ¬(x.core = v.core ∧ x.ctx % 4 = v.ctx % 4) → u.ctx x = s.ctx x
    s.coreFrozen core = false →
    (∀ ws slots, s.ready w = true → c.raises = false → c.bubbles = 0 → k.switching = none → s.nextSlots w = some (ws, slots) →
      s.cacheHit w ws.length = true → c.nullifies slots = true →
      ∃ u : State, exec (.nullifiedBundle core) s = .next u ∧ u.ctx w = { c with pc := c.pc + 4 * BitVec.ofNat 64 ws.length, scrubs := false } ∧
        others u w ∧ s.SameBytes u ∧ u.wall = s.wall) ∧
    (∀ y, s.ready w = false → c.bubbles = 0 → k.ownsForwarding w.ctx = false → k.switching = none →
      s.pick core = some y → y ≠ k.last % 4 → k.arrayIdle → k.limited (k.engineWeight none) = false →
      ∃ u : State, exec (.contextSwitch core) s = .next u ∧ (u.core core).serving = y ∧ (u.core core).last = k.last ∧
        (u.core core).switching = none ∧
        u.wall = s.wall + 3 ∧ u.ctx ⟨core, y⟩ = { s.ctx ⟨core, y⟩ with block := none } ∧ others u ⟨core, y⟩ ∧ s.SameBytes u) ∧
    (k.limited (s.nextWeight core) = true →
      ∃ u : State, exec (.limiterFreeze core) s = .next u ∧ u.wall = s.wall + 1 ∧ others u (s.frozenFor core) ∧ s.SameBytes u ∧
        u.ctx (s.frozenFor core) = (let d := s.ctx (s.frozenFor core)
          if d.task.isSome then { d with frz := d.frz + 1 } else d) ∧
        (u.core core).passes = k.passes ∧ (u.core core).queue = k.queue ∧ (u.core core).shutter = k.shutter) ∧
    (∀ ws slots, s.ready w = true → c.raises = false → c.block = none → c.bubbles = 0 → k.switching = none →
      s.nextSlots w = some (ws, slots) → s.bundleBanks w slots ≠ [] →
      s.bankTurn core (s.bundleBanks w slots) = none ∨ k.bankLost = false ∧ ¬ (s.bundleBanks w slots).Nodup →
      ∃ u : State, exec (.bankConflictFreeze core) s = .next u ∧ u.wall = s.wall + 1 ∧ others u w ∧ s.SameBytes u ∧
        (k.limited 0 = false → u.ctx w = { c with bankStall := c.bankStall + 1 }) ∧
        (k.limited 0 = true → u.ctx w = { c with frz := c.frz + 1 }) ∧ (u.core core).passes = k.passes ∧
        (u.core core).queue = k.queue ∧ (u.core core).shutter = k.shutter) ∧
    (∀ ws slots n, s.nextSlots w = some (ws, slots) → s.bankTurn core (s.bundleBanks w slots) = some n →
      (s.bundleBanks w slots).Nodup ∨ k.bankLost = true → exec (.bankConflictFreeze core) s = .next s) ∧
    (∀ ws, s.ready w = true → k.switching = none → s.fetchBundle w = .ok ws → s.cacheHit w ws.length = false → k.arrayIdle →
      s.fetchWaits w ws.length = false → k.limited (k.engineWeight none) = false →
      ∃ u : State, exec (.instructionFetch core) s = .next u ∧ u.wall = s.wall + 1 ∧ (∀ x, u.ctx x = s.ctx x) ∧ s.SameBytes u ∧
        ∀ l ∈ cacheLines c.part c.pc.toNat ws.length, k.icache.contains l = false → (u.core core).icache.contains l = true) ∧
    (∀ x : BitVec 2, exec (.resultLands core x) s = .next (s.modCtx ⟨core, x.toNat⟩ Ctx.landDue) ∧
      (∀ v : Who, ¬(v.core = core ∧ v.ctx % 4 = x.toNat) → (s.modCtx ⟨core, x.toNat⟩ Ctx.landDue).ctx v = s.ctx v) ∧
      (∀ d, (∀ e ∈ d.latch, 0 < e.rem) → (Ctx.landDue d).SameRegs d ∧ (Ctx.landDue d).flags = d.flags))

/-- R20. An active cycle of task-mode code adds one to ACYC and takes one from BUDGET: the cycle of a bundle that issues, and a bubble of
its own taken branch, which also leaves the pc and takes one bubble away. No other context's ACYC or BUDGET changes. That BUDGET stays 0
where a bubble comes at 0 is the model's reading (log 24). -/
def Obligations.ActiveCyclesCount : Prop :=
  (∀ (s : State) (w : Who) (c0 : Ctx) (slots : List Slot), c0.priv = false →
    let t := s.finishBundle w c0 slots
    let c := s.ctx w
    (t.ctx w).acyc = c.acyc + 1 ∧ (t.ctx w).budget = (if c.budget = 0 then 0 else c.budget - 1) ∧
    ∀ x : Who, ¬(x.core = w.core ∧ x.ctx % 4 = w.ctx % 4) → (t.ctx x).acyc = (s.ctx x).acyc ∧ (t.ctx x).budget = (s.ctx x).budget) ∧
  (∀ (s : State) (core : Nat) (ms : List Move),
    let w := s.served core
    let k := s.core core
    let c := s.ctx w
    s.agenda = .cycle core :: ms → s.power = .d0 → s.diePresent (dieOf core) = true → s.coreFrozen core = false → k.switching = none → c.bubbles ≠ 0 → c.priv = false →
    k.limited (k.engineWeight (some w.ctx)) = false →
    ∃ u : State, step s = .next u ∧ u.wall = s.wall + 1 ∧ (u.ctx w).acyc = c.acyc + 1 ∧
      (u.ctx w).budget = (if c.budget = 0 then 0 else c.budget - 1) ∧ (u.ctx w).pc = c.pc ∧ (u.ctx w).bubbles = c.bubbles - 1 ∧
      ∀ x : Who, ¬(x.core = core ∧ x.ctx % 4 = w.ctx % 4) → (u.ctx x).acyc = (s.ctx x).acyc ∧ (u.ctx x).budget = (s.ctx x).budget)

/-! ### Launches, tasks and nests -/

/-- How launches reach a Pump and its pool (R131, R132, R180 to R183, R186, R187, R192, R193). The entry at the head of a Wellhead, whatever is
behind it, moves to its own die's Pump where its task is accepted and it finds a place in its core's die's pool, or where its record waits for
a translation or its partition does not run; it stays, held since then and with the core it was given, while it finds no place, and leaves
where its record fails or its task is foreign. A launch whose record is accepted and that finds a place enters the pool of its core's die, or
goes over the die links, with the lower priority, and one whose record fails leaves; a SPAWN's CP falls either way. A Pump hands launches
over the die links in the order in which it chose their cores, but for those that a full share or their partition holds; one that would
overtake another waits (R182). The holding of a source that is held already goes on (R193). The launch number of TASKID is one more than the launches its core's die has accepted (log 7). An accepted nest enters its
Pump's pool at its first tuple. A task handed over enters the pool. The next entry of a host launch queue is taken, one that was held is
taken once it finds a place, and one of no kind is skipped. -/
def Obligations.LaunchEvents : Prop :=
  ∀ (s : State) (die : Nat),
    let d := s.die die
    (∀ (slice : Nat) (l : Launch) (b : Bool) (rest : List WellEntry), sliceDie slice = die → (s.slice slice).well = ⟨l, b⟩ :: rest →
      let goes (v : Launch) : Prop := ∃ u : State, exec (.wellheadHandoff slice) s = .next u ∧ u.cores = s.cores ∧
        (u.slice slice).well = rest ∧ (u.die die).inbox = d.inbox ++ [v]
      let fails : Prop := ∃ u : State, exec (.wellheadHandoff slice) s = .next u ∧ (u.slice slice).well = rest ∧ (u.die die).inbox = d.inbox
      (s.foreignTask l.part l.taskNo l.tenant = true → fails) ∧
      (s.foreignTask l.part l.taskNo l.tenant = false → s.sourceHeld l.part (0, slice) = true → exec (.wellheadHandoff slice) s = .next s) ∧
      (s.foreignTask l.part l.taskNo l.tenant = false → s.sourceHeld l.part (0, slice) = false →
        (s.scheduled l.part = false → goes { l with held := none }) ∧
        (∀ t, s.scheduled l.part = true → s.offer die l = .wait t → goes { l with held := none }) ∧
        (∀ c v t, s.scheduled l.part = true → s.offer die l = .fail c v t → fails) ∧
        (∀ core r t, s.scheduled l.part = true → s.offer die l = .ok (core, r) t →
          let m := t.pickCore l (core, r)
          (m.2.takes (dieOf core) m.1 = true → goes { m.1 with dest := some (dieOf core), held := none }) ∧
          (m.2.takes (dieOf core) m.1 = false → ∃ u : State, exec (.wellheadHandoff slice) s = .next u ∧ u.cores = s.cores ∧
            (u.slice slice).well = ⟨(m.2.hold m.1 (dieOf core)).1, b⟩ :: rest ∧ (u.die die).inbox = d.inbox)))) ∧
    (∀ (l : Launch) (c : Nat × TaskRec), (l.chosen = some c → s.pickCore l c = (l, s)) ∧ (l.chosen ≠ some c →
      s.pickCore l c = ({ l with chosen := some c, picked := s.serial }, { s with serial := s.serial + 1 }))) ∧
    (∀ (l : Launch) (to' : Nat), s.inTurn die to' l = true ↔ to' = die ∨ ∀ (i : Nat) (x : Launch) (c : Nat × TaskRec), d.inbox[i]? = some x →
      x.id ≠ l.id → x.held = none → s.scheduled x.part = true → x.chosen = some c → dieOf c.1 = to' →
      (∀ y ∈ d.inbox.take i, y.part = x.part → y.source = x.source → y.held = none) → l.chosen ≠ none ∧ l.picked ≤ x.picked) ∧
    (∀ (l : Launch) (share : Nat), let r := s.hold l share
      r.1.chosen = l.chosen ∧ r.1.dest = none ∧
      (∀ x since, l.held = some (x, since) → r.1.held = some (share, since) ∧ r.2 = s) ∧
      (l.held = none → (∀ x ∈ s.heldLaunches share l.part, x.source ≠ l.source) →
        r.1.held = some (share, s.serial) ∧ r.2 = { s with serial := s.serial + 1 }) ∧
      (∀ since, l.held = none → (∃ x ∈ s.heldLaunches share l.part, x.source = l.source) →
        (∀ x ∈ s.heldLaunches share l.part, x.source = l.source → x.held = some (share, since)) →
        r.1.held = some (share, since) ∧ r.2 = s)) ∧
    (∀ (i : Nat) (l : Launch), d.inbox[i]? = some l → s.scheduled l.part = true → (∀ p ∈ s.pubs, l.pub ≠ some p.id) →
      (∀ x ∈ d.inbox.take i, x.part = l.part → x.source = l.source → x.held = none) → (∀ j, l.src ≠ .hostNest j) →
      let falls (u : State) : Prop := ∀ w, (s.ctx w).SameRegs (u.ctx w) ∧
        (l.src = .spawn w → (u.ctx w).counts = (s.ctx w).counts.less .cp)
      (∀ (core : Nat) (r : TaskRec) (t : State), s.offer die l = .ok (core, r) t → t.inTurn die (dieOf core) l = true →
        t.takes (dieOf core) l = true →
        ∃ (u : State) (p : PoolTask), exec (.launchAccept die i) s = .next u ∧ falls u ∧
          p.launch = { l with chosen := none, held := none, dest := none, picked := 0 } ∧ p.trec = r ∧
          p.core = core ∧ p.base = min l.prio r.prio ∧ p.number = (s.die (dieOf core)).launches + 1 ∧
          (u.die (dieOf core)).launches = (s.die (dieOf core)).launches + 1 ∧
          (u.die die).inbox = d.inbox.eraseIdx i ∧
          (dieOf core = die → (u.die die).pool = d.pool ++ [p]) ∧
          (dieOf core ≠ die → (u.die (dieOf core)).handed = (s.die (dieOf core)).handed ++ [p])) ∧
      (∀ (core : Nat) (r : TaskRec) (t : State), s.offer die l = .ok (core, r) t → t.inTurn die (dieOf core) l = true →
        t.takes (dieOf core) l = false →
        ∃ u : State, exec (.launchAccept die i) s = .next u ∧ u.cores = s.cores ∧
          let m := t.pickCore l (core, r)
          (u.die die).inbox = d.inbox.set i (m.2.hold m.1 (dieOf core)).1) ∧
      (∀ (core : Nat) (r : TaskRec) (t : State), s.offer die l = .ok (core, r) t → t.inTurn die (dieOf core) l = false →
        ∃ u : State, exec (.launchAccept die i) s = .next u ∧ u.cores = s.cores ∧ (u.die die).inbox = d.inbox) ∧
      (∀ (c v : Nat) (t : State), s.offer die l = .fail c v t →
        ∃ u : State, exec (.launchAccept die i) s = .next u ∧ falls u ∧ (u.die die).inbox = d.inbox.eraseIdx i ∧
          (u.die die).pool = d.pool)) ∧
    (∀ (i : Nat) (l : Launch) (j : Nat) (bs : List Byte) (t : State), d.inbox[i]? = some l → s.scheduled l.part = true →
      (∀ p ∈ s.pubs, l.pub ≠ some p.id) → (∀ x ∈ d.inbox.take i, x.part = l.part → x.source = l.source → x.held = none) →
      l.src = .hostNest j → l.handle.toNat % 128 = 0 → l.handle.toNat < 2 ^ 56 →
      s.pumpRead (.pump l.id) die l.part l.handle.toNat 128 = .ok bs t → t.nestRecOk l.part bs = true → t.takes die l = true →
      ∃ (u : State) (n : Nest), exec (.launchAccept die i) s = .next u ∧ (u.die die).nests = d.nests ++ [n] ∧ n.nrec = nestRecOf bs ∧
        n.next = some ((nestRecOf bs).levels.map (fun _ => 0)) ∧ n.live = [] ∧ n.staged = false ∧ n.paused = none ∧
        (u.die die).inbox = d.inbox.eraseIdx i ∧ u.cores = s.cores) ∧
    (∀ (t : PoolTask) (rest : List PoolTask), d.handed = t :: rest →
      ∃ (u : State) (p : PoolTask), exec (.launchHandover die) s = .next u ∧ (u.die die).handed = rest ∧ (u.die die).pool = d.pool ++ [p] ∧
        p.serial = t.serial ∧ p.launch = t.launch ∧ p.core = t.core ∧ u.cores = s.cores ∧
        (∀ x ∈ p.waits, x ∈ t.waits) ∧ (∀ x rest', p.waits = x :: rest' → s.ctrValue (.cistern x.1 x.2.1) < x.2.2)) ∧
    (∀ iface : Nat, let f := s.iface iface
      let bs := s.host.bytes (f.lqbase.toNat + 32 * (f.lqhead.toNat % 2 ^ f.lqsize.toNat)) 32
      iface < 256 → f.tdi = 2 → s.scheduled f.part.toNat = true → s.sourceHeld f.part.toNat (3, iface) = false →
      let taken (u : State) (l : Launch) (share : Nat) : Prop := ∃ id : Nat, (u.iface iface).lqhead = f.lqhead + 1 ∧
        (u.iface iface).lqheld = none ∧
        (u.die die).inbox = d.inbox ++ [{ l with rels := [id], held := none, dest := some share }] ∧ u.cores = s.cores
      (∀ (l : Launch) (core : Nat) (r : TaskRec) (t : State), f.lqheld = some l → l.src = .host iface → die = f.defcore.toNat / 256 →
        s.offer die l = .ok (core, r) t → let m := t.pickCore l (core, r)
        (m.2.takes (dieOf core) m.1 = true → ∃ u : State, exec (.hostLaunch iface) s = .next u ∧ taken u m.1 (dieOf core)) ∧
        (m.2.takes (dieOf core) m.1 = false → ∃ u : State, exec (.hostLaunch iface) s = .next u ∧ u.cores = s.cores ∧
          (u.iface iface).lqhead = f.lqhead ∧ (u.iface iface).lqheld = some (m.2.hold m.1 (dieOf core)).1)) ∧
      (f.lqheld = none → f.lqhead ≠ f.lqtail →
      (∀ (l : Launch) (core : Nat) (r : TaskRec) (t : State), wordAt bs 0 = 1 → bitsOf (wordAt bs 1) 21 11 = 0 → die = f.defcore.toNat / 256 →
        l = ({ id := s.serial, src := .host iface, part := f.part.toNat, handle := BitVec.ofNat 64 (wordAt bs 1),
               arg0 := BitVec.ofNat 64 (wordAt bs 2), arg1 := BitVec.ofNat 64 (wordAt bs 3), tenant := f.tslot,
               age := (s.part f.part.toNat).age.toNat, rels := [], pub := none, chosen := none, held := none, dest := none
               picked := 0 } : Launch) →
        ({ s.crossCxl iface false bs with serial := s.serial + 1 } : State).offer die l = .ok (core, r) t →
        let m := t.pickCore l (core, r)
        (m.2.takes (dieOf core) m.1 = true → ∃ u : State, exec (.hostLaunch iface) s = .next u ∧ taken u m.1 (dieOf core)) ∧
        (m.2.takes (dieOf core) m.1 = false → ∃ u : State, exec (.hostLaunch iface) s = .next u ∧ u.cores = s.cores ∧
          (u.iface iface).lqhead = f.lqhead ∧ (u.iface iface).lqheld = some (m.2.hold m.1 (dieOf core)).1)) ∧
      (wordAt bs 0 % 256 ≠ 1 → wordAt bs 0 % 256 ≠ 2 →
        ∃ u : State, exec (.hostLaunch iface) s = .next u ∧ (u.iface iface).lqhead = f.lqhead + 1 ∧ u.cores = s.cores ∧
          ∀ e, (u.die e).inbox = (s.die e).inbox)))

/-- Starting, ageing and waking (R44, R61, R62, R120, R183, R194, R195). A context that takes part in the selection (idle, with no idle one
below it and no SCRUB waiting) starts the candidate of its core, where X is canonical and no lower core takes that task in the same cycle:
the task's registers, pc, BUDGET, KSLOT and HASHKEY are those of its launch, record and descriptor, with the parameter words in g3 to g8 and
the whole parameter block in its X quarter, whose lines become raw and at least TEN; every other register is zero with PUB and tag raw; the body of a nest has the nest's number in NESTID and in g3 to g8 each level's index times its
step (R188); the task leaves the pool. A scheduled cycle ages the ready tasks of running partitions by one. The first satisfied waiter leaves
its list: a context's CWAIT is satisfied, and a task or a nest examines its waits again, those that hold are gone, the first that does not
enters its counter's list, and a task with none left and no predecessor running is ready. -/
def Obligations.TaskStartEvents : Prop :=
  (∀ (s : State) (core : Nat) (ctx : BitVec 2) (t : PoolTask) (bs : List Byte) (v : State),
    let w : Who := ⟨core, ctx.toNat⟩
    let l := t.launch
    let p := s.part l.part
    let n := 8 * t.trec.plen
    let body : Option (Nat × List Word) := match l.src with
      | .nest k u => (s.nest? k).map (fun n => (n.nrec.nestNo, (n.nrec.levels.zip u).map (fun e => BitVec.ofNat 64 e.2 * e.1.2.2)))
      | _ => none
    let words : List Word := match l.src with
      | .nest _ _ => (body.map Prod.snd).getD []
      | _ => (List.range t.trec.plen).map (fun i => BitVec.ofNat 64 (wordAt bs i))
    (s.core core).x.wf = true → s.selects core ctx.toNat = true → s.candidate core = some t → s.stolenBelow core t = false →
    let b := s.unpool (dieOf core) t.serial
    (n = 0 ∧ bs = [] ∨
      n ≠ 0 ∧ paramLoop (.pump t.serial) w l.part (b.startCtx w t).vis (linePieces t.trec.param n) b [] = .ok bs v ∧ bs.length = n) →
    ∃ u : State, exec (.taskSelect core ctx) s = .next u ∧
      (let c := u.ctx w
       (c.task.map TaskInfo.part) = some l.part ∧ c.priv = false ∧ c.flags = 0 ∧ c.counts = Counts.zero ∧ c.latch = [] ∧
       c.pc = BitVec.ofNat 64 t.trec.entry ∧ c.budget = BitVec.ofNat 64 t.trec.budget ∧ c.kslot = l.tenant ∧
       c.taskId = BitVec.ofNat 64 (t.trec.taskNo + 65536 * t.number) ∧ c.nestId = BitVec.ofNat 16 ((body.map Prod.fst).getD 65535) ∧ c.tvec = p.tvec &&& ~~~3#64 ∧
       c.hashKey = p.hashkey.getD ctx.toNat 0 ∧ c.age = p.age ∧
       c.readG 1 = ⟨l.arg0, .ten⟩ ∧ c.readG 2 = ⟨l.arg1, .ten⟩ ∧ c.readG 9 = ⟨BitVec.ofNat 64 t.trec.param, .ten⟩ ∧
       c.readG 30 = ⟨BitVec.ofNat 64 (65536 * ctx.toNat), .pub⟩ ∧
       (∀ i, i < 6 → c.readG (BitVec.ofNat 5 (3 + i)) = ⟨words.getD i 0, .ten⟩) ∧
       (∀ r : BitVec 5, r = 0 ∨ 10 ≤ r.toNat → r ≠ 30 → c.readG r = ⟨0, .pub⟩) ∧ (∀ r, c.fileV r = ⟨0, 0, .pub⟩) ∧
       (∀ r, c.readQ r = ⟨0, 0, .pub⟩) ∧ (∀ r, c.readM r = ⟨0, .pub⟩) ∧ (∀ r, r ≠ 0 → c.readP r = ⟨false, .pub⟩)) ∧
      (∀ j, (u.core core).xtags.get LineTag.reset j = (let tag := (s.core core).xtags.get LineTag.reset j
        if 256 * ctx.toNat ≤ j ∧ 256 * j < 65536 * ctx.toNat + n then ⟨0, tag.sens.max .ten, tag.layout⟩ else tag)) ∧
      (∀ i, i < n → (u.core core).x.byte (65536 * ctx.toNat + i) = bs.getD i 0) ∧
      (∀ a, a < 65536 * ctx.toNat ∨ 65536 * ctx.toNat + n ≤ a → (u.core core).x.byte a = (s.core core).x.byte a) ∧
      (∀ x ∈ (u.die (dieOf core)).pool, x.serial ≠ t.serial) ∧
      (∀ x : Who, ¬(x.core = core ∧ x.ctx % 4 = ctx.toNat) → u.ctx x = s.ctx x)) ∧
  (∀ (s : State) (die : Nat), s.diePresent die = false → exec (.taskAgeing die) s = .next s) ∧
  (∀ (s : State) (die : Nat), s.diePresent die = true → ∃ u : State, exec (.taskAgeing die) s = .next u ∧ (u.die die).cycles = (s.die die).cycles + 1 ∧
    u.cores = s.cores ∧ (u.die die).pool = (s.die die).pool.map (fun t =>
      if s.scheduled t.launch.part then { t with ready := t.ready.map (fun r => (r.1, r.2 + 1)) } else t)) ∧
  (∀ (s : State) (die : Nat) (w : Who) (k k' : CtrKey) (x x' : Nat) (h : Word),
    (s.die die).waiters.find? Waiter.due = some (.ctx w k x true) → (s.ctx w).block = some (.cwait k' h x') →
    ∃ u : State, exec (.waiterWake die) s = .next u ∧ u.ctx w = { s.ctx w with woken := some (h, x') } ∧
      (u.die die).waiters = dropFirst (fun y => y = .ctx w k x true) (s.die die).waiters ∧ s.SameBytes u) ∧
  (∀ (s : State) (die n : Nat) (k : CtrKey) (x e : Nat) (d : Die) (t : PoolTask),
    (s.die die).waiters.find? Waiter.due = some (.task n k x true) →
    List.find? (fun (d : Nat × Die) => d.2.pool.any (fun t => t.serial = n)) s.dies = some (e, d) → s.die e = d →
    d.pool.find? (fun t => t.serial = n) = some t →
    let ws := (s.settle t.waits t.rels).1
    let left := dropFirst (fun y => y = .task n k x true) (s.die die).waiters
    ∃ u : State, exec (.waiterWake die) s = .next u ∧ u.cores = s.cores ∧ s.SameBytes u ∧
      (∀ y ∈ (u.die e).pool, y.serial = n → y.waits = ws ∧
        y.ready = (if ws.isEmpty && !s.bodyHeld t.launch then some (d.cycles, 0) else none)) ∧
      (ws = [] → (u.die die).waiters = left) ∧
      (∀ a i v rest, ws = (a, i, v) :: rest →
        (a ≠ die → (u.die die).waiters = left) ∧ (u.die a).waiters = (if a = die then left else (s.die a).waiters) ++
          [.task n (.cistern a i) v (decide (v ≤ s.ctrValue (.cistern a i)))])) ∧
  (∀ (s : State) (die m : Nat) (k : CtrKey) (x : Nat) (n : Nest), (s.die die).waiters.find? Waiter.due = some (.nest m k x true) →
    s.nest? m = some n →
    let ws := (s.settle n.waits n.rels).1
    ∃ u : State, exec (.waiterWake die) s = .next u ∧ u.cores = s.cores ∧ s.SameBytes u ∧ (u.nest? m).map Nest.waits = some ws ∧
      (ws = [] → (u.die die).waiters = dropFirst (fun y => y = .nest m k x true) (s.die die).waiters))

/-- Nests and the end of tasks (R184, R188 to R191, R204, R215). Once a nest's waits hold, its working set is staged, access by access: a staging
that waits keeps its progress, one that is through is published, and one that fails takes its nest away; the walker places its next tuple
on the core that R189 gives, live until it ends; a nest with nothing left retires and its counter advances. A context whose END has issued
and whose counts are zero publishes what it holds, and then becomes idle and its counter advances; where it ran the body of a nest, its tuple
is live no more. A terminated task whose counts are zero and whose seal session, if any, has closed retires: once for the task the partition's
fault log gets its record (kind 4, cause, core, tenant, the address of its task record, TASKID and TRAPPC; R249) in the slot that the ring's
serial names, where that line can be written, and the task-fault counter advances. -/
def Obligations.NestAndRetirementEvents : Prop :=
  (∀ (s : State) (die i : Nat) (n : Nest), (s.die die).nests[i]? = some n →
    (n.staged = false → n.waits = [] →
      let r := stageLoop (s.stageCtx die n) stageMost s n
      let v := r.s
      (r.failed = false → r.waits = false → ∃ (u : State) (rid : Nat), exec (.staging die i) s = .next u ∧ u.cores = v.cores ∧
        (u.die die).nests = (v.die die).nests.modify i (fun _ => { r.nest with staged := true, rels := rid :: r.nest.rels })) ∧
      (r.failed = false → r.waits = true → ∃ u : State, exec (.staging die i) s = .next u ∧ u.cores = v.cores ∧
        (u.die die).nests = (v.die die).nests.modify i (fun _ => r.nest)) ∧
      (r.failed = true → ∃ u : State, exec (.staging die i) s = .next u ∧ (u.die die).nests = (v.die die).nests.eraseIdx i)) ∧
    (∀ (e : EngCtx) (k : Nat), n.nrec.wsn ≤ n.ranges → stageLoop e k s n = ⟨s, n, false, false⟩) ∧
    (∀ (e : EngCtx) (k : Nat), n.ranges < n.nrec.wsn →
      (∀ u, s.stageStep e n = .wait u → stageLoop e (k + 1) s n = ⟨u, n, true, false⟩) ∧
      (∀ c v u, s.stageStep e n = .fail c v u → stageLoop e (k + 1) s n = ⟨u, n, false, true⟩) ∧
      (∀ m u, s.stageStep e n = .ok m u → stageLoop e (k + 1) s n = stageLoop e k u m)) ∧
    (∀ (tuple : List Nat) (r : TaskRec) (t : State), n.staged = true → n.next = some tuple → s.scheduled n.launch.part = true →
      s.readTask (.pump n.serial) die n.launch.part n.nrec.taskNo n.launch.tenant = .ok r t →
      let core := t.tupleCore n.launch.part n.nrec.levels tuple
      let l : Launch :=
        { n.launch with src := .nest n.serial tuple, handle := BitVec.ofNat 64 n.nrec.taskNo, rels := n.rels
                        age := (t.part n.launch.part).age.toNat, pub := none, chosen := none, held := n.paused, dest := none, picked := 0 }
      t.inTurn die (dieOf core) l = true → t.takes (dieOf core) l = true →
      ∃ (u : State) (p : PoolTask) (m : Nest), exec (.nestWalk die i) s = .next u ∧ u.cores = s.cores ∧ (u.die die).nests[i]? = some m ∧
        m.next = nextTuple n.nrec.levels tuple ∧ m.live = n.live ++ [tuple] ∧ m.paused = none ∧ p.launch.src = .nest n.serial tuple ∧
        p.core = core ∧ p.base = n.nrec.prio ∧ p.trec = r ∧
        (dieOf core = die → (u.die die).pool = (s.die die).pool ++ [p]) ∧
        (dieOf core ≠ die → (u.die (dieOf core)).handed = (s.die (dieOf core)).handed ++ [p])) ∧
    (n.staged = true → n.next = none → n.live = [] →
      let k : CtrKey := .cistern n.nrec.cdie n.nrec.cindex
      (n.nrec.cv = true → s.ctrValue k + 1 < 2 ^ 64) →
      ∃ u : State, exec (.nestRetire die i) s = .next u ∧ u.cores = s.cores ∧ (u.die die).nests = (s.die die).nests.eraseIdx i ∧
        u.ctrValue k = s.ctrValue k + (if n.nrec.cv then 1 else 0))) ∧
  (∀ (s : State) (core : Nat) (ctx : BitVec 2) (info : TaskInfo),
    let w : Who := ⟨core, ctx.toNat⟩
    let c := s.ctx w
    let k : CtrKey := .cistern info.cdie info.cindex
    let idle (u : State) : Prop := (u.ctx w).task = none ∧ (u.ctx w).ending = none ∧ (u.ctx w).terminating = none ∧
      (∀ x : Who, ¬(x.core = core ∧ x.ctx % 4 = ctx.toNat) → u.ctx x = s.ctx x)
    c.task = some info → c.counts = Counts.zero → (s.core core).passDone w.ctx = true →
    (c.ending ≠ none → c.terminating = none → c.reports = [] → c.stores = [] → (∀ p ∈ s.pubs, p.who ≠ w) →
      info.nest = none → (info.cv = true → s.ctrValue k + 1 < 2 ^ 64) →
      ∃ u : State, exec (.taskRetire core ctx) s = .next u ∧ idle u ∧ u.ctrValue k = s.ctrValue k + (if info.cv then 1 else 0) ∧
        s.SameBytes u) ∧
    (∀ serial scope tuple n, c.ending ≠ none → c.terminating = none → c.reports = [] → c.stores = [] → (∀ p ∈ s.pubs, p.who ≠ w) →
      info.nest = some (serial, scope, tuple) → (info.cv = true → s.ctrValue k + 1 < 2 ^ 64) → s.nest? serial = some n →
      ∃ (u : State) (m : Nest) (rid : Nat), exec (.taskRetire core ctx) s = .next u ∧ idle u ∧
        u.ctrValue k = s.ctrValue k + (if info.cv then 1 else 0) ∧ s.SameBytes u ∧ u.nest? serial = some m ∧
        m.live = dropFirst (fun x => x = tuple) n.live ∧ m.taskRels = n.taskRels ++ [(tuple, rid)] ∧ m.next = n.next) ∧
    (c.ending ≠ none → c.terminating = none → c.reports = [] → c.stores ≠ [] →
      ∃ (u : State) (p : Pub), exec (.taskRetire core ctx) s = .next u ∧ (u.ctx w).task = some info ∧ (u.ctx w).stores = [] ∧
        u.pubs = s.pubs ++ [p] ∧ p.who = w ∧ p.scope = info.cscope ∧ p.stores = c.stores) ∧
    (∀ cause, c.terminating = some cause → c.session = none →
      let d := s.part info.part
      let rec' := faultRecord 4 cause.toNat core c.kslot.toNat info.taskAddr c.taskId.toNat c.trapPc.toNat
      let slot := d.faultLog + 32 * (1 + leNat (s.homeBytes .hbm d.faultLog 8) % (2 ^ d.faultLogK - 1))
      ∃ u : State, exec (.terminationRetire core ctx) s = .next u ∧ idle u ∧
        (c.logged = true → (∀ p a, u.homeByte p a = s.homeByte p a) ∧ ∀ j, u.ctrValue j = s.ctrValue j) ∧
        (c.logged = false → s.hbm.wf = true → d.faultLog % 64 = 0 → 1 ≤ d.faultLogK → d.faultLog + 32 * 2 ^ d.faultLogK ≤ s.hbmSize →
          s.lineOk slot = true → (s.raiseTree slot).isSome = true → u.homeBytes .hbm slot 32 = rec') ∧
        (∀ e i, c.logged = false → handleHome d.taskCtr = .cistern e i → s.diePresent e = true → s.inQuota info.part e i = true →
          s.ctrValue (.cistern e i) + 1 < 2 ^ 64 → u.ctrValue (.cistern e i) = s.ctrValue (.cistern e i) + 1)))

/-! ### Translation, interfaces and the host -/

/-- The answers to a die's translation requests, and invalidations (R215 to R218). A grant enters the cache as its newest page and every
request of its partition that it serves ends, with none of the rest where no context waits for its turn to ask; a reply overtaken by an
invalidation has its request made again; too little raises a page request, though a page that may be read enters the cache for the reads.
Success asks again; any other response, or none in time, is a denial: the request ends, and the denial is kept for everyone who has asked
(the PASID is the partition's number, and how long a denial is kept: log 10). An invalidation removes the pages it meets from every cache;
its answer puts every unpublished store through them under publication, waits while an access through them is under way, and comes once
none is. -/
def Obligations.TranslationEvents : Prop :=
  ∀ (s : State) (die i : Nat) (r : AtsReq) (reply : AtsReply),
    let d := s.die die
    let same (u : State) : Prop := u.cores = s.cores ∧ ∀ p a, u.homeByte p a = s.homeByte p a
    let denied (i' : Instr) : Prop := ∃ u : State, exec i' s = .next u ∧ same u ∧
      (u.die die).denied = (r.miss, r.askers) :: d.denied ∧ (u.die die).dtc = d.dtc ∧
      (s.waitedMisses die = [] → (u.die die).ats = d.ats.eraseIdx i)
    d.ats[i]? = some r →
    let possible : Prop := reply.granted = true → s.replyPossible reply = true
    (r.pri = false → r.stale = false → possible → replyGrants reply r.miss = true →
      ∃ u : State, exec (.atsCompletion die i reply) s = .next u ∧ same u ∧ (u.die die).dtc =
        (⟨r.miss.pasid, reply.va, reply.logSize, reply.dest, reply.writable⟩ :: d.dtc).take 65536 ∧
        (∀ x ∈ (u.die die).ats, x.stale = false → x.miss.pasid = r.miss.pasid → replyGrants reply x.miss = false) ∧
        (s.waitedMisses die = [] → (u.die die).ats =
          d.ats.filter (fun x => x.stale || x.miss.pasid != r.miss.pasid || !replyGrants reply x.miss))) ∧
    (r.pri = false → r.stale = true → possible →
      ∃ u : State, exec (.atsCompletion die i reply) s = .next u ∧ same u ∧ (u.die die).dtc = d.dtc ∧
        (u.die die).ats = d.ats.set i { r with stale := false }) ∧
    (r.pri = false → r.stale = false → possible → replyGrants reply r.miss = false → (d.ats.filter (fun x => x.pri)).length < 256 →
      ∃ u : State, exec (.atsCompletion die i reply) s = .next u ∧ same u ∧
        (u.die die).dtc = (if replyGrants reply { r.miss with write := false } then
          (⟨r.miss.pasid, reply.va, reply.logSize, reply.dest, reply.writable⟩ :: d.dtc).take 65536 else d.dtc) ∧
        (u.die die).ats = d.ats.set i { r with pri := true }) ∧
    (r.pri = true →
      (∃ u : State, exec (.prgResponse die i true) s = .next u ∧ same u ∧
        (u.die die).ats = d.ats.set i { r with pri := false, stale := false }) ∧
      denied (.prgResponse die i false) ∧ denied (.atsTimeout die i)) ∧
    (∀ part va logSize, ∃ u : State, exec (.atsInvalidate part va logSize) s = .next u ∧ same u ∧
      ∀ e, e < 4 → (u.die e).dtc = (s.die e).dtc.filter (fun x => !x.meets part va (2 ^ logSize)) ∧
        (u.die e).invalidations = (s.die e).invalidations ++ [(s.die e).dtc.filter (fun x => x.meets part va (2 ^ logSize))] ∧
        (∀ x ∈ (u.die e).ats, x.miss.pasid = part → overlaps (4096 * x.miss.page) 4096 va (2 ^ logSize) = true →
          x.stale = true)) ∧
    (∀ n, let es := s.removedBy n
      ∃ u : State, exec (.invalidationCompletion n) s = .next u ∧ (∀ w, (s.ctx w).SameRegs (u.ctx w)) ∧
        (∀ e, e < 4 → (u.die e).invalidations = if (s.flush es).framesBusy es then (s.die e).invalidations else
          (s.die e).invalidations.eraseIdx n) ∧
        (∀ w ∈ s.whos, ∀ t ∈ (s.ctx w).stores, t.through es = true → ∃ p ∈ u.pubs, p.who = w ∧ t ∈ p.stores) ∧
        (∀ w ∈ s.whos, ∀ t ∈ (u.ctx w).stores, t.through (s.removedBy n) = false))

/-- The states of a virtual interface (R256, R257, R265, R266, R272): each event leaves every other interface, the cores and the memories
as they were, and gives its own interface the state that the rules say, once bring-up is complete; before that nothing acts on an
interface (R271). IDE_KM installs a new key in each of two link slots of type 4 (R227; that the slots are operands: log 90). A
LOCK_INTERFACE waits for a layout change that writes the interface or names its partition (log 93). STATE after a reset (run where assigned), from 0 to 1 by a control
write, and between 1 and 2 at migration and resume are log 35's reading. An interface that enters ERROR or is reset holds no launch.

The register pages (R244, R262 to R266). A doorbell in RUN on a secure stream takes a tail at most a ring ahead of LQHEAD and of the old
tail, and drops any other; in another state it changes nothing but the log. A locked register is written in CONFIG_UNLOCKED, and elsewhere
the interface enters ERROR (the event of log 94); a field of the control register waits for a layout change under way (log 93). Nothing reaches the pages before bring-up is complete (R271). A read of the private page answers with its register, and is refused to an untrusted access. A counter sample
shows the shared page each counter without its low 20 bits. -/
def Obligations.InterfaceEvents : Prop :=
  (∀ (s : State) (i vector : Nat) (stamp : BitVec 16),
    let f := s.iface i
    let becomes (e : Instr) (g : Iface) : Prop := ∃ u : State, exec e s = .next u ∧ u.iface i = g ∧
      (∀ j, j ≠ i → u.iface j = s.iface j) ∧ u.cores = s.cores ∧ s.SameBytes u
    let lost (k : Nat) : BitVec 32 := BitVec.ofNat 32 (min (2 ^ 32 - 1) (f.stale.toNat + k))
    let cleared : Iface := { f with gen := f.gen + 1, st := if f.st = 0 then 0 else 1, lqhead := 0, lqtail := 0, lqheld := none,
                                    tdi := 0, stale := lost f.pending.length, pending := [], doorbellVis := [] }
    let told (g : Iface) : Iface := { g with
      delivered := f.delivered ++ unionNat ((f.pending.filter (fun e => e.2 = f.gen)).map Prod.fst) [], pending := []
      stale := lost (f.pending.filter (fun e => e.2 != f.gen)).length }
    i < 256 →
    (s.managed = false → ∀ x y, ∀ e ∈ [Instr.interfaceReset i, .stopInterface i, .lockInterface i, .startInterface i, .ideStreamInsecure i,
      .ideKm ⟨i, x, y⟩, .migrationDeschedule i, .interfaceResume i, .eventDelivery i vector stamp], exec e s = .next s) ∧
    (s.managed = true →
    becomes (.interfaceReset i) cleared ∧ becomes (.stopInterface i) cleared ∧
    becomes (.lockInterface i) (if f.tdi = 0 ∧ s.ifaceHeld i f.owner = false then { f with tdi := 1 } else f) ∧
    (f.tdi = 1 → f.st = 1 → becomes (.startInterface i) (told { f with tdi := 2 })) ∧
    (f.tdi = 1 → f.st ≠ 1 → becomes (.startInterface i) { f with tdi := 2 }) ∧
    (f.tdi ≠ 1 → becomes (.startInterface i) f) ∧
    becomes (.ideStreamInsecure i) { f with secure := false, tdi := 3, stale := lost f.pending.length, pending := [], lqheld := none } ∧
    (∀ x y, x ≠ y → (s.key x).ty = 4 → (s.key y).ty = 4 →
      ∃ u : State, exec (.ideKm ⟨i, x, y⟩) s = .next u ∧ u.iface i = { f with secure := true, link := some (x, y) } ∧
        (∀ j, j ≠ i → u.iface j = s.iface j) ∧ u.cores = s.cores ∧ s.SameBytes u ∧
        (∀ z, z = x ∨ z = y → (u.key z).ver = (s.key z).ver + 1 ∧ (u.key z).pv = false ∧ (u.key z).flits = 0) ∧
        ∀ z, z ≠ x → z ≠ y → u.key z = s.key z) ∧
    (∀ x y, x = y ∨ (s.key x).ty ≠ 4 ∨ (s.key y).ty ≠ 4 → exec (.ideKm ⟨i, x, y⟩) s = .next s) ∧
    becomes (.migrationDeschedule i) { f with gen := f.gen + 1, st := if f.st = 1 then 2 else f.st } ∧
    (f.st = 2 → f.tdi = 2 → becomes (.interfaceResume i) (told { f with st := 1 })) ∧
    (f.st = 2 → f.tdi ≠ 2 → becomes (.interfaceResume i) { f with st := 1 }) ∧
    (f.st ≠ 2 → becomes (.interfaceResume i) f) ∧
    (stamp = f.gen → f.st = 1 → f.tdi = 2 →
      becomes (.eventDelivery i vector stamp) { f with delivered := f.delivered ++ [vector] }) ∧
    (stamp = f.gen → f.st = 1 ∨ f.st = 2 → f.tdi ≠ 3 → ¬(f.st = 1 ∧ f.tdi = 2) → becomes (.eventDelivery i vector stamp) { f with
      pending := if f.pending.contains (vector, stamp) then f.pending else f.pending ++ [(vector, stamp)] }) ∧
    (stamp ≠ f.gen ∨ f.st = 0 ∨ f.st = 3 ∨ f.tdi = 3 → becomes (.eventDelivery i vector stamp) { f with stale := lost 1 }))) ∧
  (∀ (s : State) (i : Nat) (tail : BitVec 32) (v : Word),
    let f := s.iface i
    let still (u : State) : Prop := u.cores = s.cores ∧ s.SameBytes u ∧ ∀ j, j ≠ i → u.iface j = s.iface j
    let ahead (x : BitVec 32) : Prop := (tail - x).toNat ≤ 2 ^ f.lqsize.toNat
    let writes (r : LockedReg) (g : Iface) : Prop :=
      s.managed = true → s.writeHeld i r v = false →
      ∃ u : State, exec (.lockedRegisterWrite i r v) s = .next u ∧ still u ∧ u.iface i = (if f.tdi = 0 then g else { f with
        tdi := 3, stale := BitVec.ofNat 32 (min (2 ^ 32 - 1) (f.stale.toNat + f.pending.length)), pending := [], lqheld := none })
    i < 256 →
    (s.managed = false → exec (.doorbell i tail) s = .next s ∧ ∀ r, exec (.lockedRegisterWrite i r v) s = .next s) ∧
    (∀ r, f.tdi = 0 → s.writeHeld i r v = true → ∃ u : State, exec (.lockedRegisterWrite i r v) s = .next u ∧ still u ∧ u.iface i = f) ∧
    (∀ n h, s.writeHeld i .lqbase v = false ∧ s.writeHeld i .lqsize v = false ∧ s.writeHeld i (.msix n h) v = false) ∧
    (s.pendingChange = none → ∀ r, s.writeHeld i r v = false ∧ ∀ ps, s.ifaceHeld i ps = false) ∧
    (s.managed = true → f.secure = true → f.tdi = 2 → ahead f.lqhead → ahead f.lqtail →
      ∃ u : State, exec (.doorbell i tail) s = .next u ∧ still u ∧ (u.iface i).lqtail = tail ∧ (u.iface i).lqhead = f.lqhead) ∧
    (s.managed = true → f.secure = true → f.tdi = 2 → ¬(ahead f.lqhead ∧ ahead f.lqtail) →
      ∃ u : State, exec (.doorbell i tail) s = .next u ∧ still u ∧ u.iface i = f) ∧
    (s.managed = true → f.secure = false ∨ f.tdi ≠ 2 → ∃ u : State, exec (.doorbell i tail) s = .next u ∧ still u ∧ u.iface i = f ∧
      u.log = s.log ++ [.page i 0x010]) ∧
    writes .lqbase { f with lqbase := v &&& ~~~0xFFF#64 } ∧
    (4 ≤ v.toNat % 16 → v.toNat % 16 ≤ 12 → writes .lqsize { f with lqsize := v.setWidth 4 }) ∧
    (∀ n h, n < 64 → writes (.msix n h) { f with msix := f.msix.set (2 * n + h.toNat) v }) ∧
    (s.controlOk (v.setWidth 6) f.tslot f.defcore = true → writes .part { f with part := v.setWidth 6 }) ∧
    (s.controlOk (v.extractLsb' 40 6) (v.extractLsb' 10 13) (v.extractLsb' 0 10) = true → writes .control { f with
      part := v.extractLsb' 40 6, tslot := v.extractLsb' 10 13, defcore := v.extractLsb' 0 10, st := if f.st = 0 then 1 else f.st }) ∧
    ((s.part f.part.toNat).cores.contains (v.toNat % 1024) = true → writes .defcore { f with defcore := v.setWidth 10 }) ∧
    ((s.key (v.toNat % 8192)).ty = 2 → (s.key (v.toNat % 8192)).part = f.part → writes .tslot { f with tslot := v.setWidth 13 }) ∧
    (∀ acc, s.managed = false → ∃ u : State, exec (.registerWrite i acc) s = .next u ∧ still u ∧ u.iface i = f ∧ u.reply = []) ∧
    (s.managed = true → f.secure = true → f.tdi = 2 →
      ∃ u : State, exec (.registerWrite i ⟨true, true, 0x018, none⟩) s = .next u ∧ still u ∧ u.iface i = f ∧
        u.reply = leBytes 8 f.lqhead.toNat) ∧
    (s.managed = true → ∃ u : State, exec (.registerWrite i ⟨true, false, 0x018, some v⟩) s = .next u ∧ still u ∧ u.iface i = f ∧ u.reply = [] ∧
      u.log = s.log ++ [.page i 0x018]) ∧
    (∀ n, n < 32 → s.managed = true → ∃ u : State, exec (.registerWrite i ⟨false, true, 0x100 + 8 * n, none⟩) s = .next u ∧ still u ∧ u.iface i = f ∧
      u.reply = leBytes 8 (s.perfSample.get 0 (f.part.toNat * 32 + n)).toNat) ∧
    (∃ u : State, exec .counterSample s = .next u ∧ still u ∧ u.iface i = f ∧
      ∀ k, (u.perfSample.get 0 k).toNat = (s.perf.get 0 k).toNat / 2 ^ 20 * 2 ^ 20))

/-! ### Power, reset, links and meters -/

/-- Power and reset (R15, R45, R271 to R274). The management core writes PWRLIM of a present core on that core alone, and no other page; MODPWR
holds a limit of 600 to 2,200 W, which each present core's PWRLIM follows once the firmware runs (by an open table, log 3), and does not
answer after a failed bring-up or in D3cold; D0 is entered at once, D3hot where every partition is free and not otherwise, and D3cold and a
fundamental reset lose what the package holds, but not the host's memory; no write and no reset leaves D3cold. Bring-up with a legal FEAT,
the same one unless power was removed, and good signatures completes with every line zero and its four blocks measured, and stops after
step 1 with two where the signatures fail; but for block 3, the FEAT state, a measurement depends on the firmware image alone and on
whether it verifies (R245). -/
def Obligations.PowerEvents : Prop :=
  ∀ (s : State) (core : Nat) (limit : BitVec 16) (v : Word),
    let lost (u : State) : Prop := u.hbm = [] ∧ u.cores = State.reset.cores ∧ u.keys = State.reset.keys ∧ u.parts = State.reset.parts ∧
      u.granules = State.reset.granules ∧ u.booted = 0 ∧ u.host = s.host ∧ u.feat = s.feat
    (s.managed = false ∨ s.diePresent (dieOf core) = false → exec (.pwrlimWrite core limit) s = .next s) ∧
    (s.managed = true → s.diePresent (dieOf core) = true → ∃ u : State, exec (.pwrlimWrite core limit) s = .next u ∧ u.core core = { s.core core with pwrlim := limit } ∧
      (∀ k, k ≠ core → u.core k = s.core k) ∧ s.SameBytes u ∧
      u.pwrLowered = s.pwrLowered + (if limit.toNat < (s.core core).pwrlim.toNat ∧ s.pwrMarked = false then 1 else 0)) ∧
    (s.bootFailed ≠ none ∨ s.power = .d3cold → exec (.modpwrWrite v) s = .next s) ∧
    (s.bootFailed = none → s.power ≠ .d3cold → ∃ u : State, exec (.modpwrWrite v) s = .next u ∧ u.modpwr = max 600 (min 2200 (v.toNat % 2 ^ 12)) ∧ s.SameBytes u ∧
      (∀ w, u.ctx w = s.ctx w) ∧ (s.managed = true → ∀ k ∈ s.presentCores, (u.core k).pwrlim = Config.powerToLimit u.modpwr k)) ∧
    (s.power = .d3cold → ∀ p, exec (.powerStateWrite p) s = .next s) ∧
    (s.power ≠ .d3cold → ∃ u : State, exec (.powerStateWrite .d0) s = .next u ∧ u.power = .d0 ∧ u.cores = s.cores ∧ s.SameBytes u) ∧
    (s.power ≠ .d3cold → (∀ e ∈ s.parts, e.2.state = .free) →
      ∃ u : State, exec (.powerStateWrite .d3hot) s = .next u ∧ u.power = .d3hot ∧ u.cores = s.cores ∧ s.SameBytes u) ∧
    (s.power ≠ .d3cold → (∃ e ∈ s.parts, e.2.state ≠ .free) → exec (.powerStateWrite .d3hot) s = .next s) ∧
    (s.power ≠ .d3cold → ∃ u : State, exec (.powerStateWrite .d3cold) s = .next u ∧ u.power = .d3cold ∧ lost u ∧ u.featFixed = false) ∧
    (s.power = .d3cold → exec .fundamentalReset s = .next s) ∧
    (s.power ≠ .d3cold → ∃ u : State, exec .fundamentalReset s = .next u ∧ lost u ∧ u.featFixed = s.featFixed) ∧
    (s.featFixed = true → v ≠ s.feat → ∀ b, exec (.bringUp v b) s = .next s) ∧
    (∀ b, b ≠ 3 → ∀ t : State, t.image = s.image → ∀ ok, t.measureBlock ok b = s.measureBlock ok b) ∧
    (s.booted = 0 → s.bootFailed = none → featOk v = true → (s.featFixed = true → v = s.feat) →
      (∃ u : State, exec (.bringUp v true) s = .next u ∧ u.booted = 5 ∧ u.feat = v ∧ u.power = .d0 ∧ (∀ a, u.homeByte .hbm a = 0) ∧
        (∀ a, u.rangeOk .hbm a 64 = true) ∧ (∀ w, u.ctx w = s.ctx w) ∧ u.measurements.map Prod.fst = [1, 2, 3, 4]) ∧
      (∃ u : State, exec (.bringUp v false) s = .next u ∧ u.booted = 1 ∧ u.bootFailed = some 2 ∧ u.feat = v ∧ u.cores = s.cores ∧
        u.measurements.map Prod.fst = [1, 2]))

/-- Links, flows, windows and meters (R103, R136, R137, R227, R245, R246, R254, R255, R261, R267 to R271, R273). Once the firmware runs, a
read of open windows answers with the bytes, and one that meets a closed window with zeros; a write within one line of an open window stands
there, and one to a closed window is dropped; both refusals are logged (log 74). Before that nothing answers, but for the measurements after a
failed signature check. A measurement is reported, and operand 0 asks for the certificate chain (log 71). An authenticated peer's two link
keys advance and are the ones under which its flits go out and come in, and a refused peer loses its flows. A flit's eighth failure takes an existing link down (log 22). A port that is down is noted.
In D0 the oldest item of an open flow leaves it as its destination performs it, and waits where that must wait (log 43). A bandwidth window
of a present die's slice grants each of the 64 partitions at least its floor and at most its ceiling of what it asks, in all at most the window; a throttle of a tracked row is
charged to the floor first, and then to the weighted share, of the partition whose interface activated it last. A write is of a canonical
memory. -/
def Obligations.LinkAndMeterEvents : Prop :=
  ∀ (s : State),
    let calm (u : State) : Prop := u.cores = s.cores ∧ ∀ p a, u.homeByte p a = s.homeByte p a
    (∀ unit addr, ∃ u : State, exec (.correctableError unit addr) s = .next u ∧ calm u ∧ u.log = s.log ++ [.correctable unit addr.toNat]) ∧
    (s.managed = false → ∀ a n bs, exec (.cxlMemRead a n) s = .next { s with reply := [] } ∧ exec (.cxlMemWrite a bs) s = .next s) ∧
    (s.managed = true → ∀ a n, s.windowsOpen a n = true → s.rangeOk .hbm a n = true →
      ∃ u : State, exec (.cxlMemRead a n) s = .next u ∧ calm u ∧ u.reply = s.homeBytes .hbm a n) ∧
    (s.managed = true → ∀ a n, s.windowsOpen a n = false →
      ∃ u : State, exec (.cxlMemRead a n) s = .next u ∧ calm u ∧ u.reply = List.replicate n 0 ∧ u.log = s.log ++ [.cxlMem a false]) ∧
    (s.managed = true → ∀ a bs, s.MemOk → s.windowsOpen a bs.length = true → bs ≠ [] → a % 64 + bs.length ≤ 64 → s.lineOk a = true →
      (s.raiseTree a).isSome = true →
      ∃ u : State, exec (.cxlMemWrite a bs) s = .next u ∧ u.cores = s.cores ∧ u.homeBytes .hbm a bs.length = bs ∧
        ∀ p b, p ≠ .hbm ∨ b < a ∨ a + bs.length ≤ b → u.homeByte p b = s.homeByte p b) ∧
    (s.managed = true → ∀ a bs, s.windowsOpen a bs.length = false →
      ∃ u : State, exec (.cxlMemWrite a bs) s = .next u ∧ calm u ∧ u.log = s.log ++ [.cxlMem a true]) ∧
    (∀ b, b ≠ 0 → s.managed = true ∨ s.bootFailed ≠ none →
      ∃ u : State, exec (.spdmRequest b) s = .next u ∧ calm u ∧ u.reply = leBytes 48 (s.measurements.get 0 b).toNat) ∧
    (s.managed = true → ∃ u : State, exec (.spdmRequest 0) s = .next u ∧ calm u ∧ u.reply = Config.certificateChain s.identity) ∧
    (∀ b, s.managed = false → b = 0 ∨ s.bootFailed = none → exec (.spdmRequest b) s = .next { s with reply := [] }) ∧
    (∀ k x y, s.managed = true → (s.key x).ty = 4 → (s.key y).ty = 4 → x ≠ y →
      ∃ u : State, exec (.peerKeyAgreement k x y true) s = .next u ∧ calm u ∧ (u.key x).ver = (s.key x).ver + 1 ∧
        (u.key y).ver = (s.key y).ver + 1 ∧ (u.key x).flits = 0 ∧ (u.key y).flits = 0 ∧ k ∈ u.linkTrust ∧
        u.peerLinks.get (0, 0) k = (x, y)) ∧
    (∀ k x y, ∃ u : State, exec (.peerKeyAgreement k x y false) s = .next u ∧ calm u ∧ k ∉ u.linkTrust ∧
      ∀ part, u.flowEntry part k = 0) ∧
    (∀ n, let l := s.links.get Link.reset n
      (s.linkExists n = false → exec (.flitTagFailure n) s = .next s) ∧
      (l.down = false → s.linkExists n = true →
      (l.failures + 1 < 8 → ∃ u : State, exec (.flitTagFailure n) s = .next u ∧ calm u ∧
        u.links.get Link.reset n = { l with failures := l.failures + 1 }) ∧
      (8 ≤ l.failures + 1 → ∃ u : State, exec (.flitTagFailure n) s = .next u ∧ (u.links.get Link.reset n).down = true))) ∧
    (∀ n, ∃ u : State, exec (.ualinkPortDown n) s = .next u ∧ calm u ∧ n % 8 ∈ u.ports) ∧
    (∀ key x item, let f := s.flows.get Flow.reset key
      f.items[0]? = some (x, item) → s.power = .d0 → (flowDest key < 1024 → s.flowOpen (flowPart key) (flowDest key) = true) →
      (∀ t, s.deliver item = some t → exec (.flowDelivery key 0) s = .next t) ∧
      (s.deliver item = none → (∀ grp inst rank ty op n bytes, item ≠ .coll grp inst rank ty op n bytes) →
        exec (.flowDelivery key 0) s = .next s) ∧
      (∀ grp inst rank ty op n bytes, item = .coll grp inst rank ty op n bytes →
        ∃ u : State, exec (.flowDelivery key 0) s = .next u ∧ calm u ∧ (u.flows.get Flow.reset key).items = f.items.eraseIdx 0)) ∧
    (∀ (j : Nat) (demand : List (Nat × Nat)), s.diePresent (sliceDie j) = false → exec (.bandwidthWindow j demand) s = .next s) ∧
    (∀ (j : Nat) (demand : List (Nat × Nat)), (demand.map Prod.fst).Nodup → (∀ e ∈ demand, e.1 < 64) → s.diePresent (sliceDie j) = true →
      ∃ u : State, exec (.bandwidthWindow j demand) s = .next u ∧ calm u ∧ (u.slice j).charged = [] ∧
        (∀ e ∈ demand, let b := (s.slice j).band e.1
          let r := (u.slice j).grants.get (0, 0) e.1
          r.1 = min e.2 b.floor ∧ (b.floor ≤ b.ceiling → r.1 + r.2 ≤ min e.2 b.ceiling)) ∧
        ((demand.map (fun e => ((s.slice j).band e.1).floor)).sum ≤ 1024 →
          ((u.slice j).grants.map (fun (e : Nat × Nat × Nat) => e.2.1 + e.2.2)).sum ≤ 1024)) ∧
    (∀ j row n i, (s.slice j).tracked.find? row = some i →
      let p := (s.iface i).part.toNat
      let g := (s.slice j).grants.get (0, 0) p
      let c := (s.slice j).charged.get (0, 0) p
      ∃ u : State, exec (.rowThrottle j row n) s = .next u ∧ calm u ∧ u.log = s.log ++ [.throttle j i n] ∧
        (u.slice j).charged.get (0, 0) p = (c.1 + min n (g.1 - c.1), c.2 + (n - min n (g.1 - c.1)))) ∧
    (∀ j row n, (s.slice j).tracked.find? row = none → exec (.rowThrottle j row n) s = .next s)

/-! ### The management core -/

/-- The layout (R99, R204, R220, R243, R247, R250, R258, R259, R268, R272). A change is accepted into the journal or refused; it is prepared once
its partitions are at rest and the cores they release are scrubbed, then written, with the tables of each descriptor loaded from memory
(log 11), then committed and done; a watchdog reset rolls an unprepared change back, with its partitions in service again (logs 19, 38), and
carries on any other. A prepared change is written once every interface that it writes or frees is in CONFIG_UNLOCKED (log 93). Stopping a running partition ends its tasks; one that is quiet is scrubbed and configured; one that is saved waits for
its cores (log 19). A granule entry takes the bits that are not reserved, where the HBM of a present die has it, unless another partition's descriptor holds a range in it; a key slot that no layout change uses
(log 93) takes its descriptor, and loses its measurement where it passes to another partition, or a wrapped key's blob, whose SHA-384 it holds, at the next
version (log 20); a flow-table entry is taken for a present port and an authenticated and accepted peer, unless it moves the mode or port of
a valid one. -/
def Obligations.LayoutEvents : Prop :=
  ∀ (s : State) (ch c : LayoutChange) (old : List (Nat × PartDesc)),
    (s.journal = .idle → layoutAccepted ch s = true → ∃ u : State, exec (.layoutChange ch) s = .next u ∧ u.cores = s.cores ∧
      u.parts = s.parts ∧ u.journal = .preparing ch (ch.parts.map (fun e => (e.1, s.part e.1)))) ∧
    (s.journal = .idle → layoutAccepted ch s = false → ∃ u : State, exec (.layoutChange ch) s = .next u ∧ u.cores = s.cores ∧
      u.parts = s.parts ∧ u.journal = .idle ∧ u.log = s.log ++ [.refusedLayout ch.serial]) ∧
    (s.journal = .preparing c old → (∀ e ∈ c.parts, (s.part e.1).state = .free ∨ (s.part e.1).state = .configured) →
      (c.parts.map Prod.fst).Nodup → ∃ u : State, exec (.layoutChange ch) s = .next u ∧ u.journal = .prepared c old ∧ u.parts = s.parts ∧
        (∀ k, (∀ e ∈ c.parts, k ∈ (s.part e.1).cores → descPresent e.2 = true ∧ k ∈ e.2.cores) → u.core k = s.core k) ∧
        ∀ e ∈ c.parts, s.coresTaken e.1 = false → ∀ k ∈ (s.part e.1).cores, descPresent e.2 = false ∨ k ∉ e.2.cores →
          (u.core k).pwrlim = (s.core k).pwrlim ∧ (∀ x, x < 4 → (u.ctx ⟨k, x⟩).task = none) ∧
          ∀ a, (u.core k).x.byte a = 0 ∧ (u.core k).y.byte a = 0 ∧ (u.core k).w.byte a = 0) ∧
    (s.journal = .prepared c old → s.ifacesOpen c = false → ∀ i, i = .layoutChange ch ∨ i = .watchdogReset → exec i s = .next s) ∧
    (s.journal = .prepared c old → s.ifacesOpen c = true → (c.parts.map Prod.fst).Nodup → ∀ i, i = .layoutChange ch ∨ i = .watchdogReset →
      ∃ u : State, exec i s = .next u ∧ u.journal = .committed c old ∧ u.cores = s.cores ∧
        ∀ e ∈ c.parts, (u.part e.1) = { s.loadTables e.2 with state := heldState (s.part e.1).state e.2.state }) ∧
    (s.journal = .committed c old → (∀ e ∈ c.parts, e.2.state ≠ .running) → ∀ i, i = .layoutChange ch ∨ i = .watchdogReset →
      ∃ u : State, exec i s = .next u ∧ u.journal = .idle ∧ u.cores = s.cores ∧ u.parts = s.parts) ∧
    (s.journal = .preparing c old → (∀ e ∈ old, (e.2.state = .running → (s.part e.1).state = .running) ∧
        (e.2.state = .descheduled → (s.part e.1).state = .descheduled ∧ s.rotated e.1 = true)) →
      ∃ u : State, exec .watchdogReset s = .next u ∧ u.journal = .idle ∧ u.cores = s.cores ∧ u.parts = s.parts ∧
        ∀ e ∈ old, e.2.state = .running → e.1 ∉ u.frozen) ∧
    (∀ p d, s.journal = .preparing c [(p, d)] → d.state = .running ∨ d.state = .descheduled →
      ((s.part p).state = .stopping → ∃ u : State, exec .watchdogReset s = .next u ∧ u.journal = .idle ∧ u.cores = s.cores ∧
        u.part p = { s.part p with state := .running } ∧ ∀ g ∈ u.groups, (∃ m ∈ g.members, m.1 = p) → g.running = some p) ∧
      ((s.part p).state = .configured → ∃ u : State, exec .watchdogReset s = .next u ∧ u.journal = .idle ∧ u.cores = s.cores ∧
        u.part p = { s.part p with state := if s.rotated p then .descheduled else .running })) ∧
    (∀ p, let d := s.part p
      (d.state = .running → ∃ u : State, exec (.partitionStop p) s = .next u ∧ (u.part p).state = .stopping ∧
        (∀ k ∈ d.cores, ∀ x, x < 4 → (s.ctx ⟨k, x⟩).task ≠ none → (u.ctx ⟨k, x⟩).terminating ≠ none)) ∧
      (d.state = .stopping → (∀ k ∈ d.cores, s.coreQuiet k = true) → ∃ u : State, exec (.partitionStop p) s = .next u ∧
        (u.part p).state = .configured ∧ ∀ k ∈ d.cores, (u.core k).pwrlim = (s.core k).pwrlim ∧
          (∀ a, (u.core k).x.byte a = 0 ∧ (u.core k).y.byte a = 0 ∧ (u.core k).w.byte a = 0)) ∧
      (d.state = .descheduled → s.saved.find? p = none → ∃ u : State, exec (.partitionStop p) s = .next u ∧
        (u.part p).state = .configured) ∧
      (∀ v, d.state = .descheduled → s.saved.find? p = some v → s.imagesOk p v = true → s.coresTaken p = true →
        exec (.partitionStop p) s = .next s)) ∧
    (∀ g w, s.managed = false ∨ s.dieCount * 2097152 ≤ g → exec (.granuleEntryWrite g w) s = .next s) ∧
    (∀ g w, s.granuleTaken g (w &&& 0x1FFF3F0F#32).toNat = true → exec (.granuleEntryWrite g w) s = .next s) ∧
    (∀ g w, s.managed = true → g < s.dieCount * 2097152 → s.granuleTaken g (w &&& 0x1FFF3F0F#32).toNat = false → s.pagesInto g = [] →
      s.granuleUsed g = false ∨ granulePart (s.granule (g * 65536)) = w.toNat / 2 ^ 8 % 2 ^ 6 →
      ∃ u : State, exec (.granuleEntryWrite g w) s = .next u ∧ u.granule (g * 65536) = (w &&& 0x1FFF3F0F#32).toNat ∧
        (∀ a, a / 65536 ≠ g → u.granule a = s.granule a) ∧ ∀ p a, u.homeByte p a = s.homeByte p a) ∧
    (∀ slot w, s.slotHeld slot = true → exec (.keySlotWrite slot (.descriptor w)) s = .next s) ∧
    (∀ slot w, slot < 8192 → s.managed = true → s.slotHeld slot = false → w.toNat / 2 ^ 61 ∈ [1, 2, 3, 4, 5, 6] →
      ∃ u : State, exec (.keySlotWrite slot (.descriptor w)) s = .next u ∧ u.cores = s.cores ∧ (u.key slot).ty.toNat = w.toNat / 2 ^ 61 ∧
        (u.key slot).part.toNat = w.toNat / 2 ^ 55 % 2 ^ 6 ∧ (u.key slot).alg = w.getLsbD 21 ∧
        (u.key slot).ver = (s.key slot).ver ∧ (u.key slot).measurement =
          (if (s.key slot).ty ≠ 0 ∧ (s.key slot).part.toNat ≠ w.toNat / 2 ^ 55 % 2 ^ 6 then 0 else (s.key slot).measurement) ∧
        ∀ k, k ≠ slot → u.key k = s.key k) ∧
    (∀ slot blob gs, slot < 8192 → s.managed = true → (s.key slot).ty = 3 ∨ (s.key slot).ty = 6 →
      ∃ u : State, exec (.keySlotWrite slot (.importKey blob gs)) s = .next u ∧ u.cores = s.cores ∧ (u.key slot).ver = (s.key slot).ver + 1 ∧
        (u.key slot).measurement = BitVec.ofNat 384 (leNat (sha384 blob)) ∧ (u.key slot).grants = gs.take 16 ∧ ∀ k, k ≠ slot → u.key k = s.key k) ∧
    (∀ p k w, let old := s.flowEntry p k
      let moves : Prop := old / 2 ^ 63 = 1 ∧ w.toNat / 2 ^ 63 = 1 ∧ old / 2 ^ 59 % 16 ≠ w.toNat / 2 ^ 59 % 16
      (s.managed = false ∨ moves ∨ s.flowLegal p k w = false → exec (.flowTableWrite p k w) s = .next s) ∧
      (s.managed = true → ¬ moves → p < 64 → k < 1024 → s.portPresent (w.toNat / 2 ^ 59 % 8) = true → s.linkTrust.contains k = true →
        s.policyRefuses.contains (p, k) = false → ∃ u : State, exec (.flowTableWrite p k w) s = .next u ∧ u.cores = s.cores ∧
        u.flowEntry p k = (w &&& 0xF8001FFF00000000#64).toNat ∧ (∀ j, j ≠ k → u.flowEntry p j = s.flowEntry p j) ∧
        ((s.part p).flowBase = 0 → ∀ x a, u.homeByte x a = s.homeByte x a)))

/-- Time slices (R210 to R214, R227, R250). At the end of its slice a member of a group whose cores have nothing outstanding (log 17) is saved,
its cores in ascending number, and descheduled; its cores hold no task and keep PWRLIM; and every line of its save area on each die stands as
the image of R212, where no block of the counter tree is spent. From the freeze on, what is outstanding completes in rounds (State.drain), a
load as GL_RETURN completes it, and what the contexts then hold is saved, their unpublished stores among it; where something stays
outstanding, the cores stay frozen and the save comes later (log 17). With no member on the group's cores the next
descheduled one that no layout change holds resumes, unless a link that it uses is down: one that was never saved starts to run (log 38),
and a saved one has on its cores the registers and the pc of each context that it left. -/
def Obligations.TimeSliceEvents : Prop :=
  (∀ (p : Pieces), p.Pairwise (fun x y => x.1 + x.2.length ≤ y.1 ∨ y.1 + y.2.length ≤ x.1) →
    (∀ x ∈ p, Mem.bytes p.mem x.1 x.2.length = x.2) ∧
    ∀ a, (∀ x ∈ p, a < x.1 ∨ x.1 + x.2.length ≤ a) → Mem.byte p.mem a = 0) ∧
  (∀ (s : State) (part serial die i core : Nat) (v : Saved) (k : Core),
    let cs := v.cores.filter (fun c => dieOf c.1 = die)
    let m := s.diePieces part serial die v
    let at' := 0x10000 + 0x100000 * i
    let word (w : List Byte) (o n : Nat) : Nat := leNat ((w.drop o).take n)
    cs[i]? = some (core, k) →
    (∃ b, (0, b) ∈ m ∧ b.length = 24 ∧ word b 0 4 = 1 ∧ word b 4 1 = die % 256 ∧ word b 5 1 = part % 256 ∧ word b 6 2 = cs.length % 2 ^ 16 ∧
      word b 8 8 = serial % 2 ^ 64 ∧ word b 16 8 = v.cycles.getD die 0 % 2 ^ 64) ∧
    (∃ b, (0x40, b) ∈ m ∧ b.length = 32 ∧ ∀ j, j < 256 → ((leNat b).testBit j = true ↔ ∃ c ∈ cs, c.1 % 256 = j)) ∧
    (∃ b, (at', b) ∈ m ∧ b.length = 6 ∧ word b 0 2 = core % 2 ^ 16 ∧ word b 2 1 = k.last % 4 ∧ word b 4 2 = k.pwrlim.toNat) ∧
    (∀ a b, (a, b) ∈ k.x → (at' + (0x54000 + a), [b]) ∈ m) ∧ (∀ a b, (a, b) ∈ k.y → (at' + (0x94000 + a), [b]) ∈ m) ∧
    (∀ a b, (a, b) ∈ k.w → (at' + (0xB4000 + a), [b]) ∈ m) ∧
    (∀ l t, (l, t) ∈ k.xtags → (at' + (0x2000 + l), [BitVec.ofNat 8 (t.fmt.toNat + 16 * t.sens.code + 64 * t.layout.toNat)]) ∈ m) ∧
    ∀ x, x < 4 → let c := k.ctx x
      let cx := at' + (0x14000 + 0x10000 * x)
      (∃ b, (cx, b) ∈ m ∧ b.length = 256 ∧ ∀ r : BitVec 5, word b (8 * r.toNat) 8 = (c.readG r).val.toNat) ∧
      (∃ b, (cx + 0x800, b) ∈ m ∧ b.length = 8192 ∧ ∀ r : BitVec 5, word b (256 * r.toNat) 256 = (c.fileV r).val.toNat) ∧
      (∃ b, (cx + 0x300, b) ∈ m ∧ b.length = 200 ∧ ∀ e ∈ [(0, c.pc.toNat), (8, c.taskId.toNat), (16, c.nestId.toNat), (24, c.budget.toNat),
        (32, c.acyc.toNat), (56, c.flags.toNat), (88, c.trapPc.toNat), (112, c.hashKey.toNat)], word b e.1 8 = e.2)) ∧
  ∀ (s : State) (n p : Nat) (g : Group), s.groups[n]? = some g →
    (g.running = some p → 2 ≤ g.members.length → (s.part p).state = .running →
      let cores := (s.part p).cores
      let f := s.freezePart p
      let r := f.drain cores (f.drainRounds cores)
      p ∈ f.frozen ∧ (r.drained cores = false → exec (.timeSliceEnd n) s = .next r) ∧
      (r.drained cores = true → ∃ u v, exec (.timeSliceEnd n) s = .next u ∧ u.saved.find? p = some v ∧
        v.cores.map Prod.fst = distinct cores ∧ ∀ e ∈ v.cores, ∀ x, x < 4 →
          ((r.core e.1).ctx x).SameRegs (e.2.ctx x) ∧ (e.2.ctx x).counts = ((r.core e.1).ctx x).counts ∧
          (e.2.ctx x).stores = ((r.core e.1).ctx x).stores ∧ (e.1 ∈ cores → (e.2.ctx x).ops = []))) ∧
    (∀ (core : Nat) (x : BitVec 2) (o : VlOp) (us : List LoadUnit) (d : Reg) (fmt : Tag) (t : State),
      let w : Who := ⟨core, x.toNat⟩
      (s.ctx w).ops = [o] → o.kind = .load us d fmt →
      exec (.glReturn core x 0) (s.modCtx w (fun c => { c with ops := [{ o with wait := 0 }] })) = .next t → s.drainOps w = t) ∧
    (g.running = some p → 2 ≤ g.members.length → (s.part p).state = .running → s.drained (s.part p).cores = true →
      ∃ u v, exec (.timeSliceEnd n) s = .next u ∧ (u.part p).state = .descheduled ∧ u.saved.find? p = some v ∧
        v.serial = s.preemptions.get 0 p + 1 ∧ v.cores.map Prod.fst = distinct (s.part p).cores ∧
        u.groups[n]? = some { g with running := none, turn := p } ∧
        (∀ e ∈ v.cores, ∀ x, x < 4 → ((s.core e.1).ctx x).SameRegs (e.2.ctx x) ∧ (e.2.ctx x).pc = ((s.core e.1).ctx x).pc) ∧
        (let base (d : Nat) : Nat := (s.part p).saveArea.getD d 0
         let on (d : Nat) : List (Nat × Core) := v.cores.filter (fun c => dieOf c.1 = d)
         s.hbm.wf = true → s.treeSpent = [] → (∀ b, u.treeMajor.get 0 b < 2 ^ 48 - 1) → (∀ d, d < 4 → base d % 64 = 0) →
         (∀ d e, d < 4 → e < 4 → d ≠ e → base d ≠ 0 → base e ≠ 0 →
           base d + 64 * imageLines (on d) ≤ base e ∨ base e + 64 * imageLines (on e) ≤ base d) →
         ∀ d i, d < 4 → base d ≠ 0 → on d ≠ [] → i < imageLines (on d) →
           u.homeBytes .hbm (base d + 64 * i) 64 = Mem.bytes (s.diePieces p v.serial d v).mem (64 * i) 64) ∧
        ∀ k ∈ (s.part p).cores, (u.core k).pwrlim = (s.core k).pwrlim ∧ ∀ x, (u.ctx ⟨k, x⟩).task = none) ∧
    (s.groupBusy g = false → g.next (fun m => (s.part m).state = .descheduled && !s.heldByChange m) = some p → s.linkLost p = false →
      (s.saved.find? p = none → ∃ u : State, exec (.partitionResume n) s = .next u ∧ (u.part p).state = .running ∧ u.cores = s.cores ∧
        u.groups[n]? = some { g with running := some p, turn := p }) ∧
      (∀ v, s.saved.find? p = some v → s.imagesOk p v = true → (v.cores.map Prod.fst).Nodup →
        ∃ u : State, exec (.partitionResume n) s = .next u ∧ (u.part p).state = .running ∧ u.saved.find? p = none ∧
          u.groups[n]? = some { g with running := some p, turn := p } ∧
          ∀ e ∈ v.cores, ∀ x, x < 4 → (e.2.ctx x).SameRegs (u.ctx ⟨e.1, x⟩) ∧ (u.ctx ⟨e.1, x⟩).pc = (e.2.ctx x).pc))
end

