-- ==== Sys2Proof/Laws/Lanes.lean ====
section
/-! SUPPORT. What the functions of one lane compute: sums and products at special values, minimum and maximum, the clamp, rounding to an
integer, a drained element, the tree of VRED and the running value of VSCAN (R66 to R72, R77, R78, R80, R84, R372, R392). -/

namespace Sys2Proof.Machine

/-! ### Sums at special values (R67, R71, R80) -/

/-- A test for an infinity finds it where it is among the terms. -/
theorem any_inf {p : Term → Bool} {n : Bool} (h : ∀ t, p t = decide (t = .inf n)) (ts : List Term) : ts.any p = decide (.inf n ∈ ts) := by
  rw [show p = fun t => decide (t = .inf n) from funext h]
  rw [Bool.eq_iff_iff, List.any_eq_true, decide_eq_true_iff]
  exact ⟨fun ⟨x, hx, e⟩ => of_decide_eq_true e ▸ hx, fun hx => ⟨_, hx, decide_eq_true rfl⟩⟩

/-- The special values decide before any number is added. -/
theorem FFmt.sum_special (f : FFmt) (rm : Nat) (ts : List Term) :
    (.invalid ∈ ts ∨ (.inf true ∈ ts ∧ .inf false ∈ ts) → f.sum rm ts = (f.nan, flIV)) ∧
    (.invalid ∉ ts → ¬(.inf true ∈ ts ∧ .inf false ∈ ts) → (.nan ∈ ts → f.sum rm ts = (f.nan, 0)) ∧
      (.nan ∉ ts → ∀ n, .inf n ∈ ts → f.sum rm ts = (f.inf n, 0))) := by
  unfold FFmt.sum
  extract_lets isInf total zeros
  have e (n : Bool) : ts.any (isInf n) = decide (.inf n ∈ ts) := any_inf (fun t => by cases t <;> simp [isInf]) ts
  have b : (decide (.inf true ∈ ts) && decide (.inf false ∈ ts)) = decide (.inf true ∈ ts ∧ .inf false ∈ ts) := by simp
  simp only [e, b, List.contains_eq_mem, Bool.or_eq_true, decide_eq_true_eq]
  refine ⟨fun h => if_pos h, fun hi ho => ?_⟩
  rw [if_neg (not_or.2 ⟨hi, ho⟩)]
  refine ⟨fun h => if_pos h, fun h n hn => ?_⟩
  rw [if_neg h]
  cases n
  · rw [if_neg (fun ht => ho ⟨ht, hn⟩), if_pos hn]
  · rw [if_pos hn]

/-- A product of 0 and an infinity, or infinities of both signs, give the canonical NaN and IV. -/
theorem FFmt.sum_invalid (f : FFmt) (rm : Nat) {ts : List Term} (h : .invalid ∈ ts ∨ (.inf true ∈ ts ∧ .inf false ∈ ts)) :
    f.sum rm ts = (f.nan, flIV) := (f.sum_special rm ts).1 h

/-- Otherwise a NaN operand gives the canonical NaN and no flag. -/
theorem FFmt.sum_nan (f : FFmt) (rm : Nat) {ts : List Term} (h : .nan ∈ ts) (hi : .invalid ∉ ts)
    (ho : ¬(.inf true ∈ ts ∧ .inf false ∈ ts)) : f.sum rm ts = (f.nan, 0) := ((f.sum_special rm ts).2 hi ho).1 h

/-- Otherwise an infinite operand gives the infinity of its sign. -/
theorem FFmt.sum_inf (f : FFmt) (rm : Nat) {n : Bool} {ts : List Term} (h : .inf n ∈ ts) (hi : .invalid ∉ ts) (hn : .nan ∉ ts)
    (ho : ¬(.inf true ∈ ts ∧ .inf false ∈ ts)) : f.sum rm ts = (f.inf n, 0) := ((f.sum_special rm ts).2 hi ho).2 hn n h

/-- The product of two values: of a NaN a NaN, of 0 and an infinity invalid, of an infinity an infinity, of both signs. -/
theorem FVal.mul_special (x : FVal) (n m : Bool) (k : Nat) (e : Int) :
    FVal.nan.mul x = .nan ∧ x.mul .nan = .nan ∧ (FVal.inf n).mul (.inf m) = .inf (n != m) ∧
    (FVal.inf n).mul (.fin m k e) = (if k = 0 then .invalid else .inf (n != m)) ∧
    (FVal.fin m k e).mul (.inf n) = (if k = 0 then .invalid else .inf (n != m)) := by
  refine ⟨?_, ?_, rfl, rfl, rfl⟩ <;> cases x <;> rfl

/-! ### Sums of finite terms (R68, R80) -/

/-- The number that an exact sum or product stands for. -/
def Dyadic.num (d : Dyadic) : ℚ := d.i * 2 ^ d.e

/-- An integer scaled to a smaller exponent keeps its value. -/
theorem scaled_cast (i : Int) {e k : Int} (h : k ≤ e) : ((i * 2 ^ (e - k).toNat : Int) : ℚ) * 2 ^ k = i * 2 ^ e := by
  have : (2 : ℚ) ^ (e - k).toNat = 2 ^ (e - k) := by rw [← zpow_natCast, Int.toNat_of_nonneg (by omega)]
  push_cast
  rw [this, mul_assoc, ← zpow_add₀ (by norm_num), sub_add_cancel]

/-- Exact sums and products are those of the numbers. -/
theorem Dyadic.num_add (a b : Dyadic) : (a.add b).num = a.num + b.num := by
  have ha := scaled_cast a.i (min_le_left a.e b.e)
  have hb := scaled_cast b.i (min_le_right a.e b.e)
  simp only [Dyadic.add, Dyadic.num]
  rw [← ha, ← hb]
  push_cast
  ring
theorem Dyadic.num_mul (a b : Dyadic) : (a.mul b).num = a.num * b.num := by
  simp only [Dyadic.mul, Dyadic.num, zpow_add₀ (two_ne_zero' ℚ)]
  push_cast
  ring
theorem Dyadic.num_eq_zero (d : Dyadic) : d.num = 0 ↔ d.i = 0 := by
  have : (2 : ℚ) ^ d.e ≠ 0 := by positivity
  simp [Dyadic.num, this]
theorem Dyadic.num_neg (d : Dyadic) : d.num < 0 ↔ d.i < 0 := by
  have : (0 : ℚ) < 2 ^ d.e := by positivity
  rw [Dyadic.num, mul_neg_iff]
  constructor
  · rintro (⟨-, h⟩ | ⟨h, -⟩)
    · exact absurd h (not_lt.2 this.le)
    · exact_mod_cast h
  · intro h
    exact .inr ⟨by exact_mod_cast h, this⟩

/-- The magnitude of an exact sum or product as a quotient of naturals. -/
theorem Dyadic.abs_num (d : Dyadic) : ((if 0 ≤ d.e then d.i.natAbs * 2 ^ d.e.toNat else d.i.natAbs : Nat) : ℚ) /
    ((if 0 ≤ d.e then 1 else 2 ^ (-d.e).toNat : Nat) : ℚ) = |d.num| := by
  have hp : (0 : ℚ) < 2 ^ d.e := by positivity
  rw [Dyadic.num, abs_mul, abs_of_pos hp]
  have hi : ((d.i.natAbs : Nat) : ℚ) = |(d.i : ℚ)| := by rw [Nat.cast_natAbs]; push_cast; rfl
  by_cases h : 0 ≤ d.e
  · have e : (2 : ℚ) ^ d.e = 2 ^ d.e.toNat := by rw [← zpow_natCast, Int.toNat_of_nonneg h]
    rw [if_pos h, if_pos h, e, ← hi]
    push_cast
    ring
  · have e : (2 : ℚ) ^ d.e = (2 ^ (-d.e).toNat)⁻¹ := by rw [← zpow_natCast, Int.toNat_of_nonneg (by omega), ← zpow_neg, neg_neg]
    rw [if_neg h, if_neg h, e, ← hi, div_eq_mul_inv]
    push_cast
    ring

/-- Rounding an exact number that is not zero is rounding its magnitude once. -/
theorem FFmt.roundDyadic_num (f : FFmt) (rm : Nat) (sat : Bool) {d : Dyadic} (h : d.num ≠ 0) : ∃ num den : Nat, 0 < num ∧ 0 < den ∧
    (num : ℚ) / den = |d.num| ∧ f.roundDyadic rm sat d = f.round rm sat (decide (d.num < 0)) num den := by
  refine ⟨_, _, ?_, ?_, d.abs_num, ?_⟩
  · have : 0 < d.i.natAbs := Int.natAbs_pos.2 (fun e => h (d.num_eq_zero.2 e))
    split <;> positivity
  · split <;> positivity
  · simp only [FFmt.roundDyadic, d.num_neg]

/-- The number of a finite term. -/
def Term.num : Term → ℚ
  | .fin _ d => d.num
  | _ => 0

/-- The exact sum of finite terms. -/
theorem sum_num (ts : List Term) : ∀ a : Dyadic, (ts.foldl (fun acc t => match t with
    | .fin _ d => acc.add d
    | _ => acc) a).num = a.num + (ts.map Term.num).sum := by
  induction ts with
  | nil => simp
  | cons t ts ih =>
    intro a
    rw [List.foldl_cons, ih]
    cases t <;> simp [Term.num, Dyadic.num_add, add_assoc]

/-- A zero among finite terms of one sign. -/
def Term.isZero (n : Bool) : Term → Bool
  | .fin m d => decide (d.i = 0) && decide (m = n)
  | _ => false

/-- Finite terms: their exact sum is rounded once; a sum of zero has the sign that all its terms share where all are zeros, else that of
x + (-x) in the mode. -/
theorem FFmt.sum_fin (f : FFmt) (rm : Nat) {ts : List Term} (h : ∀ t ∈ ts, ∃ n d, t = .fin n d) :
    let v := (ts.map Term.num).sum
    (v ≠ 0 → ∃ num den : Nat, 0 < num ∧ 0 < den ∧ (num : ℚ) / den = |v| ∧ f.sum rm ts = f.round rm false (decide (v < 0)) num den) ∧
    (v = 0 → f.sum rm ts = (f.signBit (if ts.all (Term.isZero true) then true else if ts.all (Term.isZero false) then false
      else rm = 2), 0)) := by
  have not (x : Term) (hx : ∀ n d, x ≠ .fin n d) : x ∉ ts := fun hm => by
    obtain ⟨n, d, e⟩ := h x hm
    exact hx n d e
  intro v
  have hv := sum_num ts ⟨0, 0⟩
  rw [show Dyadic.num ⟨0, 0⟩ = 0 by simp [Dyadic.num], zero_add] at hv
  unfold FFmt.sum
  extract_lets isInf total zeros
  have e (n : Bool) : ts.any (isInf n) = decide (.inf n ∈ ts) := any_inf (fun t => by cases t <;> simp [isInf]) ts
  have z (n : Bool) : zeros n = ts.all (Term.isZero n) := by
    simp only [zeros]
    congr 1
  have ht : total.num = v := hv
  simp only [e, List.contains_eq_mem, not .invalid (by simp), not .nan (by simp), not (.inf true) (by simp), not (.inf false) (by simp),
    decide_false, Bool.false_or, Bool.and_false, Bool.false_eq_true, if_false, z]
  refine ⟨fun h0 => ?_, fun h0 => ?_⟩
  · rw [if_neg (fun hi => h0 (ht ▸ total.num_eq_zero.2 hi)), ← ht]
    exact f.roundDyadic_num rm false (ht ▸ h0)
  · rw [if_pos (total.num_eq_zero.1 (ht.trans h0))]

/-- The term of a finite value and the product of two. -/
theorem FVal.term_num (n m : Bool) (k j : Nat) (e e' : Int) : ((FVal.fin n k e).term).num = (if n then -1 else 1) * (k * 2 ^ e) ∧
    (((FVal.fin n k e).mul (.fin m j e'))).num = (if n then -1 else 1) * (k * 2 ^ e) * ((if m then -1 else 1) * (j * 2 ^ e')) := by
  constructor
  · cases n <;> simp [FVal.term, Term.num, Dyadic.num]
  · cases n <;> cases m <;> simp [FVal.mul, Term.num, Dyadic.num, zpow_add₀ (two_ne_zero' ℚ)] <;> ring

/-! ### Minimum, maximum and the clamp (R72, R372) -/

/-- The number a finite value stands for. -/
def FVal.num : FVal → ℚ
  | .fin n m e => (if n then -1 else 1) * (m * 2 ^ e)
  | _ => 0

/-- Finite values are ordered as the numbers they stand for, zeros of either sign being equal. -/
theorem FVal.lt_fin (n n' : Bool) (m m' : Nat) (e e' : Int) :
    (FVal.fin n m e).lt (.fin n' m' e') = true ↔ (FVal.fin n m e).num < (FVal.fin n' m' e').num := by
  have hp : (0 : ℚ) < 2 ^ min e e' := by positivity
  have one (b : Bool) (j : Nat) (x : Int) (h : min e e' ≤ x) :
      ((((if b then -1 else 1) * ((j * 2 ^ (x - min e e').toNat : Nat) : Int) : Int)) : ℚ) * 2 ^ min e e' = (FVal.fin b j x).num := by
    rw [FVal.num, show ((j : ℚ) * 2 ^ x) = ((j : Int) : ℚ) * 2 ^ x by simp, ← scaled_cast j h]
    cases b <;> push_cast <;> ring
  rw [← one n m e (min_le_left _ _), ← one n' m' e' (min_le_right _ _), mul_lt_mul_iff_left₀ hp, Int.cast_lt]
  simp [FVal.lt]

/-- With one NaN operand the other one is returned; with two the canonical NaN. -/
theorem FFmt.minmax_nan (f : FFmt) (big : Bool) (a b : Nat) :
    ((f.read a).isNan = true → (f.read b).isNan = true → f.minmax big a b = f.nan) ∧
    ((f.read a).isNan = true → (f.read b).isNan = false → f.minmax big a b = b) ∧
    ((f.read a).isNan = false → (f.read b).isNan = true → f.minmax big a b = a) := by
  refine ⟨?_, ?_, ?_⟩ <;> intro h h' <;> simp [FFmt.minmax, h, h']

/-- Of two values that are no NaN the lower is the minimum and the higher the maximum. -/
theorem FFmt.minmax_lt (f : FFmt) {a b : Nat} (h : (f.read a).isNan = false) (h' : (f.read b).isNan = false)
    (l : (f.read a).lt (f.read b) = true) : f.minmax false a b = a ∧ f.minmax true a b = b := by
  simp [FFmt.minmax, h, h', l]

/-- No value is lower than one that it exceeds. -/
theorem FVal.lt_asymm {x y : FVal} (h : x.lt y = true) : y.lt x = false := by
  cases x with
  | nan => simp [FVal.lt] at h
  | inf n => cases n <;> cases y with
    | nan => simp [FVal.lt] at h
    | inf m => cases m <;> simp_all [FVal.lt]
    | fin _ _ _ => simp_all [FVal.lt]
  | fin n m e => cases y with
    | nan => simp [FVal.lt] at h
    | inf m => cases m <;> simp_all [FVal.lt]
    | fin n' m' e' =>
      rw [FVal.lt_fin] at h
      exact Bool.eq_false_iff.2 (fun h' => absurd ((FVal.lt_fin ..).1 h') (not_lt.2 h.le))

/-- The same with the higher operand first. -/
theorem FFmt.minmax_gt (f : FFmt) {a b : Nat} (h : (f.read a).isNan = false) (h' : (f.read b).isNan = false)
    (l : (f.read b).lt (f.read a) = true) : f.minmax false a b = b ∧ f.minmax true a b = a := by
  simp [FFmt.minmax, h, h', l, FVal.lt_asymm l]

/-- Of two values of one magnitude -0 is the minimum and +0 the maximum. -/
theorem FFmt.minmax_zero (f : FFmt) {a b : Nat} {e e' : Int} (h : f.read a = .fin true 0 e) (h' : f.read b = .fin false 0 e') :
    f.minmax false a b = a ∧ f.minmax true a b = b ∧ f.minmax false b a = a ∧ f.minmax true b a = b := by
  simp [FFmt.minmax, h, h', FVal.isNan, FVal.lt, FVal.isNeg]

/-- The clamp of an integer element: its value is min(max(a, lo), hi), so hi where lo exceeds hi. -/
theorem clampElem_int {t : Tag} (h : ffmt t = none) (x lo hi : Nat) :
    readInt t (clampElem t x lo hi) = min (max (readInt t x) (readInt t lo)) (readInt t hi) := by
  simp only [clampElem, h]
  split <;> split <;> omega

/-- The clamp of a floating-point element is the minimum of its maximum. -/
theorem clampElem_float {t : Tag} {f : FFmt} (h : ffmt t = some f) (x lo hi : Nat) :
    clampElem t x lo hi = f.minmax false (f.minmax true x lo) hi := by simp [clampElem, h]

/-- A NaN element gives the lower bound, itself limited by the upper one. -/
theorem clampElem_nan {t : Tag} {f : FFmt} (h : ffmt t = some f) {x lo : Nat} (hi : Nat) (hx : (f.read x).isNan = true)
    (hl : (f.read lo).isNan = false) : clampElem t x lo hi = f.minmax false lo hi := by
  rw [clampElem_float h, (f.minmax_nan true x lo).2.1 hx hl]

/-! ### VRED and VSCAN (R77, R78, R392) -/

/-- A combination of VRED: integers add modulo the element's width. -/
theorem redFn_add {t : Tag} (h : ffmt t = none) (rm x y : Nat) : redFn t rm 0 x y = ((x + y) % 2 ^ tagBits t, 0) := by simp [redFn, h]

/-- Integers compare by their values. -/
theorem redFn_order {t : Tag} (h : ffmt t = none) (rm x y : Nat) :
    readInt t (redFn t rm 1 x y).1 = min (readInt t x) (readInt t y) ∧ readInt t (redFn t rm 2 x y).1 = max (readInt t x) (readInt t y) ∧
    (redFn t rm 1 x y).2 = 0 ∧ (redFn t rm 2 x y).2 = 0 := by
  simp only [redFn, h]
  refine ⟨?_, ?_, ?_, ?_⟩ <;> simp <;> split <;> omega

/-- Floating-point numbers add with one rounding and compare by R72. -/
theorem redFn_float {t : Tag} {f : FFmt} (h : ffmt t = some f) (rm x y : Nat) :
    redFn t rm 0 x y = f.add rm x y ∧ redFn t rm 1 x y = (f.minmax false x y, 0) ∧ redFn t rm 2 x y = (f.minmax true x y, 0) := by
  simp [redFn, h]

/-- With no active element a sum is +0 or 0, a minimum or maximum 0 for integers and the canonical NaN for floating point. -/
theorem redEmpty_eq (t : Tag) (fn : Nat) : (ffmt t = none → redEmpty t fn = 0) ∧ redEmpty t 0 = 0 ∧
    ∀ f, ffmt t = some f → fn ≠ 0 → redEmpty t fn = f.nan := by
  refine ⟨fun h => by simp [redEmpty, h], by unfold redEmpty; split <;> rfl, fun f h hn => by simp [redEmpty, h, hn]⟩

/-- Two sides of a combination: an empty one lets the other pass. -/
def redPair (f : Nat → Nat → Nat × BitVec 7) : Option Nat → Option Nat → Option Nat × BitVec 7
  | some x, some y => (some (f x y).1, (f x y).2)
  | some x, none => (some x, 0)
  | none, y => (y, 0)

/-- A level combines its elements 2i and 2i+1. -/
theorem redLevel_pair (f : Nat → Nat → Nat × BitVec 7) (x y : Option Nat) (t : List (Option Nat)) :
    redLevel f (x :: y :: t) = ((redPair f x y).1 :: (redLevel f t).1, (redPair f x y).2 ||| (redLevel f t).2) := by
  cases x <;> cases y <;> simp [redLevel, redPair]

/-- A level of two halves of even length is the two levels. -/
theorem redLevel_append (f : Nat → Nat → Nat × BitVec 7) : ∀ (n : Nat) (xs ys : List (Option Nat)), xs.length = 2 * n →
    redLevel f (xs ++ ys) = ((redLevel f xs).1 ++ (redLevel f ys).1, (redLevel f xs).2 ||| (redLevel f ys).2) := by
  intro n
  induction n with
  | zero => intro xs ys h; simp [List.length_eq_zero_iff.1 h, redLevel]
  | succ n ih =>
    intro xs ys h
    match xs with
    | x :: y :: t =>
      have e := ih t ys (by simp at h; omega)
      simp only [List.cons_append, redLevel_pair, e, BitVec.or_assoc]

/-- A level of even length has half its length. -/
theorem redLevel_length (f : Nat → Nat → Nat × BitVec 7) : ∀ (n : Nat) (xs : List (Option Nat)), xs.length = 2 * n →
    (redLevel f xs).1.length = n := by
  intro n
  induction n with
  | zero => intro xs h; simp [List.length_eq_zero_iff.1 h, redLevel]
  | succ n ih =>
    intro xs h
    match xs with
    | x :: y :: t => simp [redLevel_pair, ih t (by simp at h; omega)]

/-- The tree of two halves combines the trees of the halves, and its flags are those of all its combinations. -/
theorem redTree_halves (f : Nat → Nat → Nat × BitVec 7) : ∀ (n : Nat) (xs ys : List (Option Nat)), xs.length = 2 ^ n → ys.length = 2 ^ n →
    let l := redTree f n xs
    let r := redTree f n ys
    redTree f (n + 1) (xs ++ ys) = ((redPair f l.1 r.1).1, l.2 ||| r.2 ||| (redPair f l.1 r.1).2) := by
  intro n
  induction n with
  | zero =>
    intro xs ys h h'
    match xs, ys with
    | [x], [y] => simp [redTree, redLevel_pair, redLevel]
  | succ n ih =>
    intro xs ys h h'
    have e := redLevel_append f (2 ^ n) xs ys (by omega)
    have i := ih _ _ (redLevel_length f (2 ^ n) xs (by omega)) (redLevel_length f (2 ^ n) ys (by omega))
    simp only at i ⊢
    rw [redTree, e]
    simp only [i]
    simp only [redTree, Prod.mk.injEq, true_and]
    ac_rfl

/-- The tree of one element is that element. -/
theorem redTree_one (f : Nat → Nat → Nat × BitVec 7) (x : Option Nat) : redTree f 0 [x] = (x, 0) := rfl

/-- The running value of VSCAN after one more element. -/
def scanStep (f : Nat → Nat → Nat × BitVec 7) : Option Nat → Option Nat → Option Nat
  | run, none => run
  | none, some x => some x
  | some r, some x => some (f r x).1

/-- Each active element of VSCAN takes the running value after it. -/
theorem scanList_active (f : Nat → Nat → Nat × BitVec 7) : ∀ (xs : List (Option Nat)) (run : Option Nat) (i x : Nat), xs[i]? = some (some x) →
    (scanList f run xs)[i]?.map Prod.fst = (xs.take (i + 1)).foldl (scanStep f) run := by
  intro xs
  induction xs with
  | nil => intro run i x h; simp at h
  | cons y ys ih =>
    intro run i x h
    cases i with
    | zero =>
      obtain rfl : y = some x := by simpa using h
      cases run <;> simp [scanList, scanStep]
    | succ i =>
      have h' : ys[i]? = some (some x) := by simpa using h
      cases y <;> cases run <;> simp [scanList, scanStep, ih _ i x h']

/-- Every element has an output. -/
theorem scanList_length (f : Nat → Nat → Nat × BitVec 7) : ∀ (xs : List (Option Nat)) (run : Option Nat), (scanList f run xs).length = xs.length := by
  intro xs
  induction xs with
  | nil => intro run; simp [scanList]
  | cons y ys ih => intro run; cases y <;> cases run <;> simp [scanList, ih]

/-! ### Rounding to an integer and the drain (R70, R84) -/

/-- The integer that R70 and R84 round a number to. -/
def nearestInt (rm : Nat) (v : ℚ) : Int :=
  if rm = 0 then (if v - ⌊v⌋ < 1 / 2 then ⌊v⌋ else if 1 / 2 < v - ⌊v⌋ then ⌊v⌋ + 1 else if ⌊v⌋ % 2 = 0 then ⌊v⌋ else ⌊v⌋ + 1)
  else if rm = 1 then (if v < 0 then ⌈v⌉ else ⌊v⌋)
  else if rm = 2 then ⌊v⌋ else ⌈v⌉

/-- A quotient of naturals is its floor and a fraction. -/
theorem quotient_parts (num : Nat) {den : Nat} (h : 0 < den) :
    (num : ℚ) / den = (num / den : Nat) + ((num % den : Nat) : ℚ) / den ∧ ((num % den : Nat) : ℚ) / den < 1 ∧
    (0 : ℚ) ≤ ((num % den : Nat) : ℚ) / den ∧ (((num % den : Nat) : ℚ) / den = 0 ↔ num % den = 0) ∧
    (((num % den : Nat) : ℚ) / den < 1 / 2 ↔ 2 * (num % den) < den) ∧ (1 / 2 < ((num % den : Nat) : ℚ) / den ↔ den < 2 * (num % den)) := by
  have hd : (0 : ℚ) < den := by exact_mod_cast h
  refine ⟨?_, (div_lt_one hd).2 (by exact_mod_cast Nat.mod_lt num h), by positivity, ?_, ?_, ?_⟩
  · have : (num : ℚ) = den * (num / den : Nat) + (num % den : Nat) := by exact_mod_cast (Nat.div_add_mod num den).symm
    field_simp
    linarith
  · rw [div_eq_zero_iff, Nat.cast_eq_zero, or_iff_left hd.ne']
  · rw [div_lt_div_iff₀ hd two_pos, ← Nat.cast_lt (α := ℚ)]
    push_cast
    constructor <;> intro <;> linarith
  · rw [div_lt_div_iff₀ two_pos hd, ← Nat.cast_lt (α := ℚ)]
    push_cast
    constructor <;> intro <;> linarith

/-- Floor and ceiling of a natural and a fraction, and of their negation. -/
theorem floor_parts (n : Nat) {x : ℚ} (h : 0 ≤ x) (l : x < 1) : ⌊(n : ℚ) + x⌋ = n ∧ ⌈(n : ℚ) + x⌉ = (if x = 0 then (n : Int) else n + 1) ∧
    ⌊-((n : ℚ) + x)⌋ = (if x = 0 then -(n : Int) else -(n + 1)) ∧ ⌈-((n : ℚ) + x)⌉ = -(n : Int) := by
  have f : ⌊(n : ℚ) + x⌋ = n := Int.floor_eq_iff.2 ⟨by push_cast; linarith, by push_cast; linarith⟩
  have c : ⌈(n : ℚ) + x⌉ = (if x = 0 then (n : Int) else n + 1) := by
    split
    · next z => simp [z]
    · next z =>
      have := lt_of_le_of_ne h (Ne.symm z)
      exact Int.ceil_eq_iff.2 ⟨by push_cast; linarith, by push_cast; linarith⟩
  refine ⟨f, c, ?_, by rw [Int.ceil_neg, f]⟩
  rw [Int.floor_neg, c]
  split <;> rfl

/-- An integer is its own rounding. -/
theorem nearestInt_intCast (rm : Nat) (i : Int) : nearestInt rm (i : ℚ) = i := by
  simp only [nearestInt, Int.floor_intCast, Int.ceil_intCast, sub_self]
  split_ifs <;> first | rfl | norm_num at *

/-- A number is rounded to an integer in the mode, and the flag says that it is none. -/
theorem roundInt_eq {rm : Nat} (hr : rm < 4) (neg : Bool) (num : Nat) {den : Nat} (h : 0 < den) :
    let v : ℚ := (if neg then -1 else 1) * (num / den)
    (roundInt rm neg num den).1 = nearestInt rm v ∧ ((roundInt rm neg num den).2 = false ↔ ((nearestInt rm v : Int) : ℚ) = v) := by
  obtain ⟨e, l, g, z, lo, hi⟩ := quotient_parts num h
  obtain ⟨f, c, f', c'⟩ := floor_parts (num / den) g l
  intro v
  have q : quantum num den 0 = (num / den, num % den != 0, compare (2 * (num % den)) den) := by simp [quantum]
  have cmp : compare (2 * (num % den)) den = (if 2 * (num % den) < den then .lt else if 2 * (num % den) = den then .eq else .gt) := rfl
  simp only [v, e]
  generalize num % den = r at *
  generalize num / den = n at *
  generalize (r : ℚ) / den = x at *
  clear v e
  have n0 : (0 : ℚ) ≤ n := Nat.cast_nonneg n
  refine ⟨?_, ?_⟩
  · have tri : (2 * r < den ∧ ¬den < 2 * r ∧ 2 * r ≠ den) ∨ (¬2 * r < den ∧ ¬den < 2 * r ∧ 2 * r = den) ∨
        (¬2 * r < den ∧ den < 2 * r ∧ 2 * r ≠ den) := by omega
    simp only [roundInt, roundMag, q, cmp, nearestInt]
    cases neg
    · simp only [Bool.false_eq_true, if_false, one_mul, f, c, Int.cast_natCast, add_sub_cancel_left, lo, hi, z,
        show ¬((n : ℚ) + x < 0) by linarith]
      clear f c f' c' lo hi z l g
      rcases tri with ⟨a, b, k⟩ | ⟨a, b, k⟩ | ⟨a, b, k⟩ <;> rcases Nat.mod_two_eq_zero_or_one n with o | o <;> by_cases hz : r = 0 <;>
        interval_cases rm <;> simp [a, b, k, o, hz] <;> omega
    · simp only [if_true, neg_mul, one_mul, f', c']
      by_cases hz : r = 0
      · obtain rfl := z.2 hz
        interval_cases rm <;> simp_all
      · have hx : x ≠ 0 := fun hx => hz (z.1 hx)
        have s : -((n : ℚ) + x) - ((-((n : Int) + 1) : Int) : ℚ) = 1 - x := by push_cast; ring
        have lo' : (1 : ℚ) - x < 1 / 2 ↔ den < 2 * r := by rw [← hi]; constructor <;> intro <;> linarith
        have hi' : (1 : ℚ) / 2 < 1 - x ↔ 2 * r < den := by rw [← lo]; constructor <;> intro <;> linarith
        have neg' : -((n : ℚ) + x) < 0 := by have := lt_of_le_of_ne g (Ne.symm hx); linarith
        simp only [if_neg hx, s, lo', hi', neg', if_true]
        clear f c f' c' lo hi lo' hi' z l g s neg' hx
        rcases tri with ⟨a, b, k⟩ | ⟨a, b, k⟩ | ⟨a, b, k⟩ <;> rcases Nat.mod_two_eq_zero_or_one n with o | o <;>
          interval_cases rm <;> simp [a, b, k, o, hz] <;> omega
  · have rest : (roundInt rm neg num den).2 = (r != 0) := by simp only [roundInt, roundMag, q]
    rw [rest, bne_eq_false_iff_eq, ← z]
    constructor
    · intro hx
      have : (if neg then -1 else 1) * ((n : ℚ) + x) = (((if neg then -1 else 1) * (n : Int) : Int) : ℚ) := by cases neg <;> simp [hx]
      rw [this, nearestInt_intCast]
    · intro he
      by_contra hx
      generalize nearestInt rm _ = i at he
      cases neg
      · simp only [Bool.false_eq_true, if_false, one_mul] at he
        rw [← he, Int.floor_intCast] at f
        rw [f] at he
        simp at he
        exact hx he
      · simp only [if_true, neg_mul, one_mul] at he
        rw [← he, Int.ceil_intCast] at c'
        rw [c'] at he
        push_cast at he
        exact hx (by linarith)

/-- A finite scale is the number it stands for. -/
theorem scaleDyadic_num {w : BitVec 16} {n : Bool} {m : Nat} {e : Int} (h : bf16Fmt.read w.toNat = .fin n m e) :
    (scaleDyadic w).1 = n ∧ (scaleDyadic w).2.num = (FVal.fin n m e).num := by
  simp only [scaleDyadic, h, Dyadic.num, FVal.num]
  cases n <;> simp

/-- A magnitude with the sign of a product of three numbers is that product. -/
theorem signed_product (acc : Int) (n n' : Bool) (m m' : Nat) (e e' : Int) (p : ℚ) (hp : 0 < p) :
    let x : ℚ := acc * (FVal.fin n m e).num * (FVal.fin n' m' e').num * p
    (if (decide (acc < 0) != (n != n')) then -1 else 1) * |x| = x := by
  intro x
  have hm : (0 : ℚ) ≤ m * 2 ^ e := by positivity
  have hm' : (0 : ℚ) ≤ m' * 2 ^ e' := by positivity
  have ha : |(acc : ℚ)| = if acc < 0 then -(acc : ℚ) else acc := by
    split
    · next h => exact abs_of_neg (by exact_mod_cast h)
    · next h => exact abs_of_nonneg (by exact_mod_cast not_lt.1 h)
  simp only [x, FVal.num, abs_mul, abs_of_pos hp, abs_of_nonneg hm, abs_of_nonneg hm', ha]
  by_cases h : acc < 0 <;> cases n <;> cases n' <;> simp [h]

/-- A drained element: +0 for an accumulator of 0; in a floating-point format the exact product rounded once, a zero product with the sign
of its factors; in an integer format the product rounded to an integer and limited, with NX and SAT as R84 says. -/
theorem drainElem_eq (a : DrainArgs) (acc : Int) (cs rs : BitVec 16) {n n' : Bool} {m m' : Nat} {e e' : Int}
    (hc : bf16Fmt.read cs.toNat = .fin n m e) (hr : bf16Fmt.read rs.toNat = .fin n' m' e') :
    let x : ℚ := acc * (FVal.fin n m e).num * (FVal.fin n' m' e').num * 2 ^ ((if a.cfg.afmt = 11 then -9 else 0) + a.shift)
    let out := drainElem a acc cs rs
    let t := a.cfg.dfmt
    let i := nearestInt (a.frm.toNat % 4) x
    let o := clampInt (intMin t) (intMax t) i
    (acc = 0 → out = (0, 0)) ∧
    (acc ≠ 0 → (∀ f, ffmt t = some f →
      (x ≠ 0 → ∃ num den : Nat, 0 < num ∧ 0 < den ∧ (num : ℚ) / den = |x| ∧
        out = f.round (a.frm.toNat % 4) (a.frm.getLsbD 2) (decide (x < 0)) num den) ∧
      (x = 0 → out = (f.signBit (decide (acc < 0) != (n != n')), 0))) ∧
    (ffmt t = none → out = (wrapInt (tagBits t) o, (if (i : ℚ) = x ∧ o = i then 0 else flNX) ||| (if o = i then 0 else flSAT)))) := by
  obtain ⟨c1, c2⟩ := scaleDyadic_num hc
  obtain ⟨r1, r2⟩ := scaleDyadic_num hr
  intro x out t i o
  refine ⟨fun h => by simp [out, drainElem, h], fun h => ?_⟩
  let d : Dyadic := (Dyadic.mul (Dyadic.mul ⟨acc, 0⟩ (scaleDyadic cs).2) (scaleDyadic rs).2).mul ⟨1, (if a.cfg.afmt = 11 then -9 else 0) + a.shift⟩
  have dx : d.num = x := by
    simp only [d, Dyadic.num_mul, c2, r2, x]
    simp [Dyadic.num]
  have e0 : out = match ffmt t with
      | some f => if d.i = 0 then (f.signBit (decide (acc < 0) != (n != n')), 0) else f.roundDyadic (a.frm.toNat % 4) (a.frm.getLsbD 2) d
      | none =>
        let r := roundInt (a.frm.toNat % 4) (decide (acc < 0) != (n != n')) (if 0 ≤ d.e then d.i.natAbs * 2 ^ d.e.toNat else d.i.natAbs)
          (if 0 ≤ d.e then 1 else 2 ^ (-d.e).toNat)
        let o := clampInt (intMin t) (intMax t) r.1
        (wrapInt (tagBits t) o, (if r.2 || o != r.1 then flNX else 0) ||| (if o != r.1 then flSAT else 0)) := by
    simp only [out, drainElem, if_neg h, c1, r1]
    rfl
  refine ⟨fun f hf => ?_, fun hf => ?_⟩
  · rw [e0, hf]
    simp only
    refine ⟨fun hx => ?_, fun hx => if_pos (d.num_eq_zero.1 (dx.trans hx))⟩
    rw [if_neg (fun hi => hx (dx ▸ d.num_eq_zero.2 hi)), ← dx]
    exact f.roundDyadic_num _ _ (dx ▸ hx)
  · have den : 0 < (if 0 ≤ d.e then 1 else 2 ^ (-d.e).toNat : Nat) := by split <;> positivity
    obtain ⟨v1, v2⟩ := roundInt_eq (Nat.mod_lt a.frm.toNat (by norm_num : 0 < 4)) (decide (acc < 0) != (n != n'))
      (if 0 ≤ d.e then d.i.natAbs * 2 ^ d.e.toNat else d.i.natAbs) den
    rw [d.abs_num, dx, signed_product acc n n' m m' e e' _ (by positivity)] at v1 v2
    rw [e0, hf]
    simp only [v1]
    change (wrapInt (tagBits t) o, (if (_ || o != i) = true then flNX else 0) ||| (if (o != i) = true then flSAT else 0)) = _
    generalize (roundInt _ _ _ _).2 = rest at v2 ⊢
    change rest = false ↔ (i : ℚ) = x at v2
    by_cases hi : (i : ℚ) = x
    · by_cases ho : o = i <;> simp [v2.2 hi, hi, ho]
    · obtain rfl : rest = true := by cases rest <;> simp_all
      by_cases ho : o = i <;> simp [hi, ho]

end Sys2Proof.Machine
end

