-- ==== Sys2Proof/Laws/Mem.lean ====
section
/-! SUPPORT. Every operation of a memory keeps its canonical form, and what reading after writing gives. -/

namespace Sys2Proof.Machine

/-- The canonical form says: no entry is 0 and the addresses rise. -/
theorem mem_wf_iff (m : Mem) :
    Mem.wf m = true ↔ (∀ e ∈ m, e.2 ≠ 0) ∧ m.Pairwise (fun e f => e.1 < f.1) := by
  induction m with
  | nil => simp [Mem.wf]
  | cons e t ih =>
    obtain ⟨k, v⟩ := e
    cases t with
    | nil => simp [Mem.wf]
    | cons f u =>
      obtain ⟨k', v'⟩ := f
      simp only [Mem.wf, Bool.and_eq_true, ih, bne_iff_ne, ne_eq, decide_eq_true_eq]
      constructor
      · rintro ⟨⟨hv, hk⟩, hz, hp⟩
        refine ⟨fun e he => ?_, List.pairwise_cons.2 ⟨fun e he => ?_, hp⟩⟩
        · rcases List.mem_cons.1 he with rfl | he
          · exact hv
          · exact hz e he
        · rcases List.mem_cons.1 he with rfl | he
          · exact hk
          · exact Nat.lt_trans hk ((List.pairwise_cons.1 hp).1 e he)
      · rintro ⟨hz, hp⟩
        obtain ⟨h1, h2⟩ := List.pairwise_cons.1 hp
        exact ⟨⟨hz (k, v) (by simp), h1 (k', v') (by simp)⟩, fun e he => hz e (List.mem_cons_of_mem _ he), h2⟩

@[simp] theorem mem_wf_nil : Mem.wf ([] : Mem) = true := rfl

/-- Removing entries keeps the canonical form. -/
theorem mem_wf_filter {m : Mem} (h : Mem.wf m = true) (p : Host.Cell → Bool) : Mem.wf (m.filter p) = true := by
  rw [mem_wf_iff] at *
  exact ⟨fun e he => h.1 e (List.mem_of_mem_filter he), h.2.filter p⟩

/-- Zeroing a range keeps the canonical form. -/
theorem mem_wf_clear {m : Mem} (h : Mem.wf m = true) (lo len : Nat) : Mem.wf (m.clear lo len) = true := mem_wf_filter h _

/-- What a write of one byte may list: the byte's own address and what was listed before. -/
theorem mem_put_mem {m : Mem} {a : Nat} {b : Byte} {e : Host.Cell} (h : e ∈ m.put a b) : e = (a, b) ∨ e ∈ m := by
  induction m with
  | nil =>
    simp only [Mem.put] at h
    split at h <;> simp_all
  | cons f t ih =>
    obtain ⟨k, v⟩ := f
    simp only [Mem.put] at h
    split at h
    · split at h <;> simp_all
    · split at h
      · split at h <;> simp_all
        tauto
      · rcases List.mem_cons.1 h with rfl | h
        · exact .inr (by simp)
        · rcases ih h with h | h
          · exact .inl h
          · exact .inr (by simp [h])

/-- Writing a byte keeps the canonical form. -/
theorem mem_wf_put {m : Mem} (h : Mem.wf m = true) (a : Nat) (b : Byte) : Mem.wf (m.put a b) = true := by
  rw [mem_wf_iff] at *
  obtain ⟨hz, hp⟩ := h
  induction m with
  | nil =>
    simp only [Mem.put]
    split <;> simp_all
  | cons f t ih =>
    obtain ⟨k, v⟩ := f
    obtain ⟨h1, h2⟩ := List.pairwise_cons.1 hp
    have hz' : ∀ e ∈ t, e.2 ≠ 0 := fun e he => hz e (List.mem_cons_of_mem _ he)
    simp only [Mem.put]
    split
    · next hk =>
      split
      · exact ⟨hz, hp⟩
      · next hb =>
        refine ⟨fun e he => ?_, List.pairwise_cons.2 ⟨fun e he => ?_, hp⟩⟩
        · rcases List.mem_cons.1 he with rfl | he
          · exact hb
          · exact hz e he
        · rcases List.mem_cons.1 he with rfl | he
          · exact hk
          · exact Nat.lt_trans hk (h1 e he)
    · split
      · next hk =>
        subst hk
        split
        · exact ⟨hz', h2⟩
        · next hb =>
          refine ⟨fun e he => ?_, List.pairwise_cons.2 ⟨h1, h2⟩⟩
          rcases List.mem_cons.1 he with rfl | he
          · exact hb
          · exact hz' e he
      · next hlt hne =>
        obtain ⟨i1, i2⟩ := ih hz' h2
        refine ⟨fun e he => ?_, List.pairwise_cons.2 ⟨fun e he => ?_, i2⟩⟩
        · rcases List.mem_cons.1 he with rfl | he
          · exact hz (k, v) (by simp)
          · exact i1 e he
        · rcases mem_put_mem he with rfl | he
          · show k < a
            omega
          · exact h1 e he

/-- Writing bytes keeps the canonical form. -/
theorem mem_wf_putBytes {m : Mem} (h : Mem.wf m = true) (a : Nat) (bs : List Byte) : Mem.wf (m.putBytes a bs) = true := by
  induction bs generalizing m a with
  | nil => exact h
  | cons b bs ih => exact ih (mem_wf_put h a b) (a + 1)

/-- The byte at an address that lies below every listed one. -/
theorem mem_byte_below {m : Mem} {a : Nat} (h : ∀ e ∈ m, a < e.1) : m.byte a = 0 := by
  induction m with
  | nil => rfl
  | cons f t ih =>
    obtain ⟨k, v⟩ := f
    have hk : k ≠ a := (Nat.ne_of_lt (h (k, v) (by simp))).symm
    simp only [Mem.byte, SMap.get, SMap.find?, if_neg hk]
    exact ih (fun e he => h e (List.mem_cons_of_mem _ he))

/-- A listed first entry is what its address reads as, and another address reads as in the rest. -/
theorem mem_byte_cons (k : Nat) (v : Byte) (t : Mem) (a : Nat) : Mem.byte ((k, v) :: t) a = if k = a then v else Mem.byte t a := by
  simp only [Mem.byte, SMap.get, SMap.find?]
  split <;> simp

/-- A read after a write of one byte. -/
theorem mem_byte_put {m : Mem} (h : Mem.wf m = true) (a x : Nat) (b : Byte) :
    (m.put a b).byte x = if x = a then b else m.byte x := by
  rw [mem_wf_iff] at h
  obtain ⟨-, hp⟩ := h
  induction m with
  | nil =>
    simp only [Mem.put]
    split
    · next hb => subst hb; simp [Mem.byte, SMap.get, SMap.find?]
    · simp only [mem_byte_cons, eq_comm]
  | cons f t ih =>
    obtain ⟨k, v⟩ := f
    obtain ⟨h1, h2⟩ := List.pairwise_cons.1 hp
    have low : ∀ y, y < k → Mem.byte ((k, v) :: t) y = 0 := fun y hy =>
      mem_byte_below (fun e he => by
        rcases List.mem_cons.1 he with rfl | he
        · exact hy
        · exact Nat.lt_trans hy (h1 e he))
    simp only [Mem.put]
    split
    · next hk =>
      split
      · next hb =>
        subst hb
        split
        · next hx => subst hx; exact low _ hk
        · rfl
      · rw [mem_byte_cons a b]
        simp only [eq_comm]
    · split
      · next hk =>
        subst hk
        have zero : Mem.byte t k = 0 := mem_byte_below (fun e he => h1 e he)
        split
        · next hb =>
          subst hb
          rw [mem_byte_cons]
          split
          · next hx => subst hx; simp [zero]
          · next hx => simp [eq_comm, hx]
        · simp only [mem_byte_cons]
          by_cases hx : k = x
          · subst hx; simp
          · rw [if_neg hx, if_neg (Ne.symm hx), if_neg hx]
      · next hlt hne =>
        simp only [mem_byte_cons, ih h2]
        by_cases hx : k = x
        · subst hx; simp [hne]
        · simp [hx]

/-- A read after a write of bytes. -/
theorem mem_byte_putBytes {m : Mem} (h : Mem.wf m = true) (a x : Nat) (bs : List Byte) :
    (m.putBytes a bs).byte x = if a ≤ x ∧ x < a + bs.length then bs.getD (x - a) 0 else m.byte x := by
  induction bs generalizing m a with
  | nil => simp [Mem.putBytes]
  | cons b bs ih =>
    simp only [Mem.putBytes]
    rw [ih (mem_wf_put h a b), mem_byte_put h]
    simp only [List.length_cons]
    by_cases hx : x = a
    · subst hx; simp
    · by_cases h1 : a + 1 ≤ x ∧ x < a + 1 + bs.length
      · rw [if_pos h1, if_pos (by omega), show x - a = (x - (a + 1)) + 1 by omega]
        simp
      · rw [if_neg h1, if_neg hx, if_neg (by omega)]

/-- A read after zeroing a range. -/
theorem mem_byte_clear (m : Mem) (lo len x : Nat) :
    (m.clear lo len).byte x = if lo ≤ x ∧ x < lo + len then 0 else m.byte x := by
  induction m with
  | nil => simp [Mem.clear, Mem.byte, SMap.get, SMap.find?]
  | cons f t ih =>
    obtain ⟨k, v⟩ := f
    have e : Mem.clear ((k, v) :: t) lo len =
        if k < lo ∨ lo + len ≤ k then (k, v) :: Mem.clear t lo len else Mem.clear t lo len := by
      simp [Mem.clear, List.filter_cons]
    rw [e]
    split
    · next hk =>
      rw [mem_byte_cons, mem_byte_cons, ih]
      by_cases hx : k = x
      · subst hx
        rw [if_pos rfl, if_neg (by omega)]
        simp
      · simp [hx]
    · next hk =>
      rw [mem_byte_cons, ih]
      by_cases hx : k = x
      · subst hx
        rw [if_pos (by omega), if_pos (by omega)]
      · simp [hx]

end Sys2Proof.Machine
end

