-- ==== Sys2Proof/Laws/State.lean ====
section
/-! SUPPORT. Lemmas of the updates of the state: what each leaves as it was, by rfl, and what reading after writing gives. -/

namespace Sys2Proof.Machine

/-! ### Sparse tables -/

theorem smap_find_set_self {α : Type} (m : SMap α) (k : Nat) (v : α) : SMap.find? (SMap.set m k v) k = some v := by
  induction m with
  | nil => simp [SMap.set, SMap.find?]
  | cons e t ih =>
    obtain ⟨a, w⟩ := e
    simp only [SMap.set]
    split
    · simp [SMap.find?]
    · split <;> simp_all [SMap.find?]

theorem smap_find_set_ne {α : Type} (m : SMap α) {k j : Nat} (v : α) (h : j ≠ k) :
    SMap.find? (SMap.set m k v) j = SMap.find? m j := by
  induction m with
  | nil => simp [SMap.set, SMap.find?, h.symm]
  | cons e t ih =>
    obtain ⟨a, w⟩ := e
    simp only [SMap.set]
    split
    · simp [SMap.find?, h.symm]
    · split
      · next hk => subst hk; simp [SMap.find?, h.symm]
      · simp_all [SMap.find?]

@[simp] theorem smap_get_set_self {α : Type} (m : SMap α) (d : α) (k : Nat) (v : α) :
    SMap.get (SMap.set m k v) d k = v := by simp [SMap.get, smap_find_set_self]

theorem smap_get_set_ne {α : Type} (m : SMap α) (d : α) {k j : Nat} (v : α) (h : j ≠ k) :
    SMap.get (SMap.set m k v) d j = SMap.get m d j := by simp [SMap.get, smap_find_set_ne _ _ h]

/-! ### Cores and contexts -/

@[simp] theorem core_setCore_self (s : State) (c : Nat) (k : Core) : (s.setCore c k).core c = k := by
  simp [State.core, State.setCore]

theorem core_setCore_ne (s : State) {c j : Nat} (k : Core) (h : j ≠ c) : (s.setCore c k).core j = s.core j := by
  simp [State.core, State.setCore, smap_get_set_ne _ _ _ h]

@[simp] theorem core_modCore_self (s : State) (c : Nat) (f : Core → Core) : (s.modCore c f).core c = f (s.core c) := by
  simp [State.modCore]

theorem core_modCore_ne (s : State) {c j : Nat} (f : Core → Core) (h : j ≠ c) : (s.modCore c f).core j = s.core j := by
  simp [State.modCore, core_setCore_ne _ _ h]

@[simp] theorem coreCtx_setCtx_self (k : Core) (x : Nat) (c : Ctx) : (k.setCtx x c).ctx x = c := by
  simp [Core.ctx, Core.setCtx]

theorem coreCtx_setCtx_ne (k : Core) {x y : Nat} (c : Ctx) (h : y % 4 ≠ x % 4) : (k.setCtx x c).ctx y = k.ctx y := by
  simp only [Core.ctx, Core.setCtx]
  rw [Vector.getElem_set_ne]
  omega

@[simp] theorem ctx_setCtx_self (s : State) (w : Who) (c : Ctx) : (s.setCtx w c).ctx w = c := by
  simp [State.setCtx, State.ctx]

@[simp] theorem ctx_modCtx_self (s : State) (w : Who) (f : Ctx → Ctx) : (s.modCtx w f).ctx w = f (s.ctx w) := by
  simp [State.modCtx]

/-- Another context keeps its state. -/
theorem ctx_modCtx_ne (s : State) {w v : Who} (f : Ctx → Ctx) (h : ¬(v.core = w.core ∧ v.ctx % 4 = w.ctx % 4)) :
    (s.modCtx w f).ctx v = s.ctx v := by
  by_cases hc : v.core = w.core
  · have hx : v.ctx % 4 ≠ w.ctx % 4 := fun e => h ⟨hc, e⟩
    simp only [State.modCtx, State.setCtx, State.ctx, hc, core_modCore_self]
    exact coreCtx_setCtx_ne _ _ hx
  · simp [State.modCtx, State.setCtx, State.ctx, core_modCore_ne _ _ hc]

/-- A change of one context changes nothing else of its core. -/
theorem core_modCtx_frame (s : State) (w : Who) (f : Ctx → Ctx) (k : Nat) :
    { (s.modCtx w f).core k with ctxs := (s.core k).ctxs } = s.core k := by
  by_cases h : k = w.core
  · subst h
    simp [State.modCtx, State.setCtx, Core.setCtx]
  · simp [State.modCtx, State.setCtx, core_modCore_ne _ _ h]

/-- Any field of a core but its contexts is as before a change of one context. -/
theorem core_modCtx_field {α : Type} (g : Core → α) (hg : ∀ (k : Core) (v : Vector Ctx 4), g { k with ctxs := v } = g k)
    (s : State) (w : Who) (f : Ctx → Ctx) (k : Nat) : g ((s.modCtx w f).core k) = g (s.core k) := by
  have h := congrArg g (core_modCtx_frame s w f k)
  rwa [hg] at h

@[simp] theorem cur_modCur (s : State) (f : Ctx → Ctx) : (s.modCur f).cur = f s.cur := ctx_modCtx_self s s.who f

/-- A change of the issuing context changes nothing else. -/
theorem onlyCur_modCur (s : State) (f : Ctx → Ctx) : s.OnlyCur (s.modCur f) :=
  ⟨by simp [State.modCur, State.modCtx, State.setCtx, State.modCore, State.setCore],
   fun k => core_modCtx_frame s s.who f k, fun _ h => ctx_modCtx_ne s f h⟩

theorem onlyCur_refl (s : State) : s.OnlyCur s := ⟨rfl, fun _ => rfl, fun _ _ => rfl⟩

/-- A syllable whose meaning changes its context alone. -/
theorem runs_modCur {i : Instr} {s : State} (f : Ctx → Ctx) (h : exec i s = .next (s.modCur f)) : Runs i s (f s.cur) :=
  ⟨_, h, onlyCur_modCur s f, cur_modCur s f⟩

/-- A syllable whose meaning changes nothing. -/
theorem runs_same {i : Instr} {s : State} (h : exec i s = .next s) : Runs i s s.cur := ⟨_, h, onlyCur_refl s, rfl⟩

/-- A g result. -/
theorem runs_pushG {i : Instr} {s : State} {l : Nat} {d : BitVec 5} {v : Word} {z : Sens}
    (h : exec i s = .next (s.pushG l d v z)) : Runs i s (s.cur.withG l d v z) := runs_modCur _ h

/-- A predicate result. -/
theorem runs_pushP {i : Instr} {s : State} {l : Nat} {d : BitVec 3} {v : Bool} {z : Sens}
    (h : exec i s = .next (s.pushP l d v z)) : Runs i s (s.cur.withP l d v z) := runs_modCur _ h

/-- A syllable whose guard is true has its effect. -/
theorem guarded_true {s : State} {gd : Guard} (h : s.cur.guardTrue gd = true) (f : State → Out) : s.guarded gd f = f s := by
  simp [State.guarded, h]

/-! ### Fields that an update leaves -/

@[simp] theorem setCore_feat (s : State) (c : Nat) (k : Core) : (s.setCore c k).feat = s.feat := rfl
@[simp] theorem setCore_featFixed (s : State) (c : Nat) (k : Core) : (s.setCore c k).featFixed = s.featFixed := rfl
@[simp] theorem setCore_localPool (s : State) (c : Nat) (k : Core) : (s.setCore c k).localPool = s.localPool := rfl
@[simp] theorem setCore_booted (s : State) (c : Nat) (k : Core) : (s.setCore c k).booted = s.booted := rfl
@[simp] theorem setCore_boots (s : State) (c : Nat) (k : Core) : (s.setCore c k).boots = s.boots := rfl
@[simp] theorem setCore_bootFailed (s : State) (c : Nat) (k : Core) : (s.setCore c k).bootFailed = s.bootFailed := rfl
@[simp] theorem setCore_measurements (s : State) (c : Nat) (k : Core) : (s.setCore c k).measurements = s.measurements := rfl
@[simp] theorem setCore_modpwr (s : State) (c : Nat) (k : Core) : (s.setCore c k).modpwr = s.modpwr := rfl
@[simp] theorem setCore_pwrmeas (s : State) (c : Nat) (k : Core) : (s.setCore c k).pwrmeas = s.pwrmeas := rfl
@[simp] theorem setCore_pwrLowered (s : State) (c : Nat) (k : Core) : (s.setCore c k).pwrLowered = s.pwrLowered := rfl
@[simp] theorem setCore_pwrMarked (s : State) (c : Nat) (k : Core) : (s.setCore c k).pwrMarked = s.pwrMarked := rfl
@[simp] theorem setCore_power (s : State) (c : Nat) (k : Core) : (s.setCore c k).power = s.power := rfl
@[simp] theorem setCore_clusters (s : State) (c : Nat) (k : Core) : (s.setCore c k).clusters = s.clusters := rfl
@[simp] theorem setCore_dies (s : State) (c : Nat) (k : Core) : (s.setCore c k).dies = s.dies := rfl
@[simp] theorem setCore_slices (s : State) (c : Nat) (k : Core) : (s.setCore c k).slices = s.slices := rfl
@[simp] theorem setCore_hbm (s : State) (c : Nat) (k : Core) : (s.setCore c k).hbm = s.hbm := rfl
@[simp] theorem setCore_host (s : State) (c : Nat) (k : Core) : (s.setCore c k).host = s.host := rfl
@[simp] theorem setCore_peer (s : State) (c : Nat) (k : Core) : (s.setCore c k).peer = s.peer := rfl
@[simp] theorem setCore_peerSens (s : State) (c : Nat) (k : Core) : (s.setCore c k).peerSens = s.peerSens := rfl
@[simp] theorem setCore_badLines (s : State) (c : Nat) (k : Core) : (s.setCore c k).badLines = s.badLines := rfl
@[simp] theorem setCore_badBlocks (s : State) (c : Nat) (k : Core) : (s.setCore c k).badBlocks = s.badBlocks := rfl
@[simp] theorem setCore_hdm (s : State) (c : Nat) (k : Core) : (s.setCore c k).hdm = s.hdm := rfl
@[simp] theorem setCore_lineKeys (s : State) (c : Nat) (k : Core) : (s.setCore c k).lineKeys = s.lineKeys := rfl
@[simp] theorem setCore_treeMinor (s : State) (c : Nat) (k : Core) : (s.setCore c k).treeMinor = s.treeMinor := rfl
@[simp] theorem setCore_treeMajor (s : State) (c : Nat) (k : Core) : (s.setCore c k).treeMajor = s.treeMajor := rfl
@[simp] theorem setCore_treeSpent (s : State) (c : Nat) (k : Core) : (s.setCore c k).treeSpent = s.treeSpent := rfl
@[simp] theorem setCore_granules (s : State) (c : Nat) (k : Core) : (s.setCore c k).granules = s.granules := rfl
@[simp] theorem setCore_keys (s : State) (c : Nat) (k : Core) : (s.setCore c k).keys = s.keys := rfl
@[simp] theorem setCore_parts (s : State) (c : Nat) (k : Core) : (s.setCore c k).parts = s.parts := rfl
@[simp] theorem setCore_flowTables (s : State) (c : Nat) (k : Core) : (s.setCore c k).flowTables = s.flowTables := rfl
@[simp] theorem setCore_preemptions (s : State) (c : Nat) (k : Core) : (s.setCore c k).preemptions = s.preemptions := rfl
@[simp] theorem setCore_ifaces (s : State) (c : Nat) (k : Core) : (s.setCore c k).ifaces = s.ifaces := rfl
@[simp] theorem setCore_groups (s : State) (c : Nat) (k : Core) : (s.setCore c k).groups = s.groups := rfl
@[simp] theorem setCore_saved (s : State) (c : Nat) (k : Core) : (s.setCore c k).saved = s.saved := rfl
@[simp] theorem setCore_frozen (s : State) (c : Nat) (k : Core) : (s.setCore c k).frozen = s.frozen := rfl
@[simp] theorem setCore_frozenAt (s : State) (c : Nat) (k : Core) : (s.setCore c k).frozenAt = s.frozenAt := rfl
@[simp] theorem setCore_journal (s : State) (c : Nat) (k : Core) : (s.setCore c k).journal = s.journal := rfl
@[simp] theorem setCore_perf (s : State) (c : Nat) (k : Core) : (s.setCore c k).perf = s.perf := rfl
@[simp] theorem setCore_perfSample (s : State) (c : Nat) (k : Core) : (s.setCore c k).perfSample = s.perfSample := rfl
@[simp] theorem setCore_log (s : State) (c : Nat) (k : Core) : (s.setCore c k).log = s.log := rfl
@[simp] theorem setCore_links (s : State) (c : Nat) (k : Core) : (s.setCore c k).links = s.links := rfl
@[simp] theorem setCore_wire (s : State) (c : Nat) (k : Core) : (s.setCore c k).wire = s.wire := rfl
@[simp] theorem setCore_treeFresh (s : State) (c : Nat) (k : Core) : (s.setCore c k).treeFresh = s.treeFresh := rfl
@[simp] theorem setCore_image (s : State) (c : Nat) (k : Core) : (s.setCore c k).image = s.image := rfl
@[simp] theorem setCore_peerLinks (s : State) (c : Nat) (k : Core) : (s.setCore c k).peerLinks = s.peerLinks := rfl
@[simp] theorem setCore_ports (s : State) (c : Nat) (k : Core) : (s.setCore c k).ports = s.ports := rfl
@[simp] theorem setCore_flows (s : State) (c : Nat) (k : Core) : (s.setCore c k).flows = s.flows := rfl
@[simp] theorem setCore_inFlows (s : State) (c : Nat) (k : Core) : (s.setCore c k).inFlows = s.inFlows := rfl
@[simp] theorem setCore_linkTrust (s : State) (c : Nat) (k : Core) : (s.setCore c k).linkTrust = s.linkTrust := rfl
@[simp] theorem setCore_policyRefuses (s : State) (c : Nat) (k : Core) : (s.setCore c k).policyRefuses = s.policyRefuses := rfl
@[simp] theorem setCore_reply (s : State) (c : Nat) (k : Core) : (s.setCore c k).reply = s.reply := rfl
@[simp] theorem setCore_colls (s : State) (c : Nat) (k : Core) : (s.setCore c k).colls = s.colls := rfl
@[simp] theorem setCore_collIssued (s : State) (c : Nat) (k : Core) : (s.setCore c k).collIssued = s.collIssued := rfl
@[simp] theorem setCore_fills (s : State) (c : Nat) (k : Core) : (s.setCore c k).fills = s.fills := rfl
@[simp] theorem setCore_hist (s : State) (c : Nat) (k : Core) : (s.setCore c k).hist = s.hist := rfl
@[simp] theorem setCore_releases (s : State) (c : Nat) (k : Core) : (s.setCore c k).releases = s.releases := rfl
@[simp] theorem setCore_pubs (s : State) (c : Nat) (k : Core) : (s.setCore c k).pubs = s.pubs := rfl
@[simp] theorem setCore_advances (s : State) (c : Nat) (k : Core) : (s.setCore c k).advances = s.advances := rfl
@[simp] theorem setCore_ctrRels (s : State) (c : Nat) (k : Core) : (s.setCore c k).ctrRels = s.ctrRels := rfl
@[simp] theorem setCore_serial (s : State) (c : Nat) (k : Core) : (s.setCore c k).serial = s.serial := rfl
@[simp] theorem setCore_wall (s : State) (c : Nat) (k : Core) : (s.setCore c k).wall = s.wall := rfl
@[simp] theorem setCore_free (s : State) (c : Nat) (k : Core) : (s.setCore c k).free = s.free := rfl
@[simp] theorem setCore_focus (s : State) (c : Nat) (k : Core) : (s.setCore c k).focus = s.focus := rfl
@[simp] theorem setCore_issue (s : State) (c : Nat) (k : Core) : (s.setCore c k).issue = s.issue := rfl
@[simp] theorem setCore_agenda (s : State) (c : Nat) (k : Core) : (s.setCore c k).agenda = s.agenda := rfl

@[simp] theorem modCtx_feat (s : State) (w : Who) (f : Ctx → Ctx) : (s.modCtx w f).feat = s.feat := rfl
@[simp] theorem modCtx_featFixed (s : State) (w : Who) (f : Ctx → Ctx) : (s.modCtx w f).featFixed = s.featFixed := rfl
@[simp] theorem modCtx_localPool (s : State) (w : Who) (f : Ctx → Ctx) : (s.modCtx w f).localPool = s.localPool := rfl
@[simp] theorem modCtx_booted (s : State) (w : Who) (f : Ctx → Ctx) : (s.modCtx w f).booted = s.booted := rfl
@[simp] theorem modCtx_boots (s : State) (w : Who) (f : Ctx → Ctx) : (s.modCtx w f).boots = s.boots := rfl
@[simp] theorem modCtx_bootFailed (s : State) (w : Who) (f : Ctx → Ctx) : (s.modCtx w f).bootFailed = s.bootFailed := rfl
@[simp] theorem modCtx_measurements (s : State) (w : Who) (f : Ctx → Ctx) : (s.modCtx w f).measurements = s.measurements := rfl
@[simp] theorem modCtx_modpwr (s : State) (w : Who) (f : Ctx → Ctx) : (s.modCtx w f).modpwr = s.modpwr := rfl
@[simp] theorem modCtx_pwrmeas (s : State) (w : Who) (f : Ctx → Ctx) : (s.modCtx w f).pwrmeas = s.pwrmeas := rfl
@[simp] theorem modCtx_pwrLowered (s : State) (w : Who) (f : Ctx → Ctx) : (s.modCtx w f).pwrLowered = s.pwrLowered := rfl
@[simp] theorem modCtx_pwrMarked (s : State) (w : Who) (f : Ctx → Ctx) : (s.modCtx w f).pwrMarked = s.pwrMarked := rfl
@[simp] theorem modCtx_power (s : State) (w : Who) (f : Ctx → Ctx) : (s.modCtx w f).power = s.power := rfl
@[simp] theorem modCtx_clusters (s : State) (w : Who) (f : Ctx → Ctx) : (s.modCtx w f).clusters = s.clusters := rfl
@[simp] theorem modCtx_dies (s : State) (w : Who) (f : Ctx → Ctx) : (s.modCtx w f).dies = s.dies := rfl
@[simp] theorem modCtx_slices (s : State) (w : Who) (f : Ctx → Ctx) : (s.modCtx w f).slices = s.slices := rfl
@[simp] theorem modCtx_hbm (s : State) (w : Who) (f : Ctx → Ctx) : (s.modCtx w f).hbm = s.hbm := rfl
@[simp] theorem modCtx_host (s : State) (w : Who) (f : Ctx → Ctx) : (s.modCtx w f).host = s.host := rfl
@[simp] theorem modCtx_peer (s : State) (w : Who) (f : Ctx → Ctx) : (s.modCtx w f).peer = s.peer := rfl
@[simp] theorem modCtx_peerSens (s : State) (w : Who) (f : Ctx → Ctx) : (s.modCtx w f).peerSens = s.peerSens := rfl
@[simp] theorem modCtx_badLines (s : State) (w : Who) (f : Ctx → Ctx) : (s.modCtx w f).badLines = s.badLines := rfl
@[simp] theorem modCtx_badBlocks (s : State) (w : Who) (f : Ctx → Ctx) : (s.modCtx w f).badBlocks = s.badBlocks := rfl
@[simp] theorem modCtx_hdm (s : State) (w : Who) (f : Ctx → Ctx) : (s.modCtx w f).hdm = s.hdm := rfl
@[simp] theorem modCtx_lineKeys (s : State) (w : Who) (f : Ctx → Ctx) : (s.modCtx w f).lineKeys = s.lineKeys := rfl
@[simp] theorem modCtx_treeMinor (s : State) (w : Who) (f : Ctx → Ctx) : (s.modCtx w f).treeMinor = s.treeMinor := rfl
@[simp] theorem modCtx_treeMajor (s : State) (w : Who) (f : Ctx → Ctx) : (s.modCtx w f).treeMajor = s.treeMajor := rfl
@[simp] theorem modCtx_treeSpent (s : State) (w : Who) (f : Ctx → Ctx) : (s.modCtx w f).treeSpent = s.treeSpent := rfl
@[simp] theorem modCtx_granules (s : State) (w : Who) (f : Ctx → Ctx) : (s.modCtx w f).granules = s.granules := rfl
@[simp] theorem modCtx_keys (s : State) (w : Who) (f : Ctx → Ctx) : (s.modCtx w f).keys = s.keys := rfl
@[simp] theorem modCtx_parts (s : State) (w : Who) (f : Ctx → Ctx) : (s.modCtx w f).parts = s.parts := rfl
@[simp] theorem modCtx_flowTables (s : State) (w : Who) (f : Ctx → Ctx) : (s.modCtx w f).flowTables = s.flowTables := rfl
@[simp] theorem modCtx_preemptions (s : State) (w : Who) (f : Ctx → Ctx) : (s.modCtx w f).preemptions = s.preemptions := rfl
@[simp] theorem modCtx_ifaces (s : State) (w : Who) (f : Ctx → Ctx) : (s.modCtx w f).ifaces = s.ifaces := rfl
@[simp] theorem modCtx_groups (s : State) (w : Who) (f : Ctx → Ctx) : (s.modCtx w f).groups = s.groups := rfl
@[simp] theorem modCtx_saved (s : State) (w : Who) (f : Ctx → Ctx) : (s.modCtx w f).saved = s.saved := rfl
@[simp] theorem modCtx_frozen (s : State) (w : Who) (f : Ctx → Ctx) : (s.modCtx w f).frozen = s.frozen := rfl
@[simp] theorem modCtx_frozenAt (s : State) (w : Who) (f : Ctx → Ctx) : (s.modCtx w f).frozenAt = s.frozenAt := rfl
@[simp] theorem modCtx_journal (s : State) (w : Who) (f : Ctx → Ctx) : (s.modCtx w f).journal = s.journal := rfl
@[simp] theorem modCtx_perf (s : State) (w : Who) (f : Ctx → Ctx) : (s.modCtx w f).perf = s.perf := rfl
@[simp] theorem modCtx_perfSample (s : State) (w : Who) (f : Ctx → Ctx) : (s.modCtx w f).perfSample = s.perfSample := rfl
@[simp] theorem modCtx_log (s : State) (w : Who) (f : Ctx → Ctx) : (s.modCtx w f).log = s.log := rfl
@[simp] theorem modCtx_links (s : State) (w : Who) (f : Ctx → Ctx) : (s.modCtx w f).links = s.links := rfl
@[simp] theorem modCtx_wire (s : State) (w : Who) (f : Ctx → Ctx) : (s.modCtx w f).wire = s.wire := rfl
@[simp] theorem modCtx_treeFresh (s : State) (w : Who) (f : Ctx → Ctx) : (s.modCtx w f).treeFresh = s.treeFresh := rfl
@[simp] theorem modCtx_image (s : State) (w : Who) (f : Ctx → Ctx) : (s.modCtx w f).image = s.image := rfl
@[simp] theorem modCtx_peerLinks (s : State) (w : Who) (f : Ctx → Ctx) : (s.modCtx w f).peerLinks = s.peerLinks := rfl
@[simp] theorem modCtx_ports (s : State) (w : Who) (f : Ctx → Ctx) : (s.modCtx w f).ports = s.ports := rfl
@[simp] theorem modCtx_flows (s : State) (w : Who) (f : Ctx → Ctx) : (s.modCtx w f).flows = s.flows := rfl
@[simp] theorem modCtx_inFlows (s : State) (w : Who) (f : Ctx → Ctx) : (s.modCtx w f).inFlows = s.inFlows := rfl
@[simp] theorem modCtx_linkTrust (s : State) (w : Who) (f : Ctx → Ctx) : (s.modCtx w f).linkTrust = s.linkTrust := rfl
@[simp] theorem modCtx_policyRefuses (s : State) (w : Who) (f : Ctx → Ctx) : (s.modCtx w f).policyRefuses = s.policyRefuses := rfl
@[simp] theorem modCtx_reply (s : State) (w : Who) (f : Ctx → Ctx) : (s.modCtx w f).reply = s.reply := rfl
@[simp] theorem modCtx_colls (s : State) (w : Who) (f : Ctx → Ctx) : (s.modCtx w f).colls = s.colls := rfl
@[simp] theorem modCtx_collIssued (s : State) (w : Who) (f : Ctx → Ctx) : (s.modCtx w f).collIssued = s.collIssued := rfl
@[simp] theorem modCtx_fills (s : State) (w : Who) (f : Ctx → Ctx) : (s.modCtx w f).fills = s.fills := rfl
@[simp] theorem modCtx_hist (s : State) (w : Who) (f : Ctx → Ctx) : (s.modCtx w f).hist = s.hist := rfl
@[simp] theorem modCtx_releases (s : State) (w : Who) (f : Ctx → Ctx) : (s.modCtx w f).releases = s.releases := rfl
@[simp] theorem modCtx_pubs (s : State) (w : Who) (f : Ctx → Ctx) : (s.modCtx w f).pubs = s.pubs := rfl
@[simp] theorem modCtx_advances (s : State) (w : Who) (f : Ctx → Ctx) : (s.modCtx w f).advances = s.advances := rfl
@[simp] theorem modCtx_ctrRels (s : State) (w : Who) (f : Ctx → Ctx) : (s.modCtx w f).ctrRels = s.ctrRels := rfl
@[simp] theorem modCtx_serial (s : State) (w : Who) (f : Ctx → Ctx) : (s.modCtx w f).serial = s.serial := rfl
@[simp] theorem modCtx_wall (s : State) (w : Who) (f : Ctx → Ctx) : (s.modCtx w f).wall = s.wall := rfl
@[simp] theorem modCtx_free (s : State) (w : Who) (f : Ctx → Ctx) : (s.modCtx w f).free = s.free := rfl
@[simp] theorem modCtx_focus (s : State) (w : Who) (f : Ctx → Ctx) : (s.modCtx w f).focus = s.focus := rfl
@[simp] theorem modCtx_issue (s : State) (w : Who) (f : Ctx → Ctx) : (s.modCtx w f).issue = s.issue := rfl
@[simp] theorem modCtx_agenda (s : State) (w : Who) (f : Ctx → Ctx) : (s.modCtx w f).agenda = s.agenda := rfl

@[simp] theorem setCtx_last (k : Core) (x : Nat) (c : Ctx) : (k.setCtx x c).last = k.last := rfl
@[simp] theorem setCtx_serving (k : Core) (x : Nat) (c : Ctx) : (k.setCtx x c).serving = k.serving := rfl
@[simp] theorem setCtx_switching (k : Core) (x : Nat) (c : Ctx) : (k.setCtx x c).switching = k.switching := rfl
@[simp] theorem setCtx_pwrlim (k : Core) (x : Nat) (c : Ctx) : (k.setCtx x c).pwrlim = k.pwrlim := rfl
@[simp] theorem setCtx_weights (k : Core) (x : Nat) (c : Ctx) : (k.setCtx x c).weights = k.weights := rfl
@[simp] theorem setCtx_icache (k : Core) (x : Nat) (c : Ctx) : (k.setCtx x c).icache = k.icache := rfl
@[simp] theorem setCtx_x (k : Core) (x : Nat) (c : Ctx) : (k.setCtx x c).x = k.x := rfl
@[simp] theorem setCtx_y (k : Core) (x : Nat) (c : Ctx) : (k.setCtx x c).y = k.y := rfl
@[simp] theorem setCtx_w (k : Core) (x : Nat) (c : Ctx) : (k.setCtx x c).w = k.w := rfl
@[simp] theorem setCtx_xtags (k : Core) (x : Nat) (c : Ctx) : (k.setCtx x c).xtags = k.xtags := rfl
@[simp] theorem setCtx_ytags (k : Core) (x : Nat) (c : Ctx) : (k.setCtx x c).ytags = k.ytags := rfl
@[simp] theorem setCtx_xbad (k : Core) (x : Nat) (c : Ctx) : (k.setCtx x c).xbad = k.xbad := rfl
@[simp] theorem setCtx_ybad (k : Core) (x : Nat) (c : Ctx) : (k.setCtx x c).ybad = k.ybad := rfl
@[simp] theorem setCtx_wbad (k : Core) (x : Nat) (c : Ctx) : (k.setCtx x c).wbad = k.wbad := rfl
@[simp] theorem setCtx_active (k : Core) (x : Nat) (c : Ctx) : (k.setCtx x c).active = k.active := rfl
@[simp] theorem setCtx_shadow (k : Core) (x : Nat) (c : Ctx) : (k.setCtx x c).shadow = k.shadow := rfl
@[simp] theorem setCtx_shutter (k : Core) (x : Nat) (c : Ctx) : (k.setCtx x c).shutter = k.shutter := rfl
@[simp] theorem setCtx_passes (k : Core) (x : Nat) (c : Ctx) : (k.setCtx x c).passes = k.passes := rfl
@[simp] theorem setCtx_queue (k : Core) (x : Nat) (c : Ctx) : (k.setCtx x c).queue = k.queue := rfl
@[simp] theorem setCtx_chans (k : Core) (x : Nat) (c : Ctx) : (k.setCtx x c).chans = k.chans := rfl
@[simp] theorem setCtx_sweeps (k : Core) (x : Nat) (c : Ctx) : (k.setCtx x c).sweeps = k.sweeps := rfl
@[simp] theorem setCtx_misc (k : Core) (x : Nat) (c : Ctx) : (k.setCtx x c).misc = k.misc := rfl
@[simp] theorem setCtx_bankLost (k : Core) (x : Nat) (c : Ctx) : (k.setCtx x c).bankLost = k.bankLost := rfl
@[simp] theorem setCtx_bankTried (k : Core) (x : Nat) (c : Ctx) : (k.setCtx x c).bankTried = k.bankTried := rfl
@[simp] theorem setCtx_clock (k : Core) (x : Nat) (c : Ctx) : (k.setCtx x c).clock = k.clock := rfl

@[simp] theorem push_task (c : Ctx) (l : Nat) (d : Reg) (v : VWord) (t : Tag) (z : Sens) (x : BitVec 7) :
    (c.push l d v t z x).task = c.task := rfl
@[simp] theorem push_starting (c : Ctx) (l : Nat) (d : Reg) (v : VWord) (t : Tag) (z : Sens) (x : BitVec 7) :
    (c.push l d v t z x).starting = c.starting := rfl
@[simp] theorem push_pc (c : Ctx) (l : Nat) (d : Reg) (v : VWord) (t : Tag) (z : Sens) (x : BitVec 7) :
    (c.push l d v t z x).pc = c.pc := rfl
@[simp] theorem push_g (c : Ctx) (l : Nat) (d : Reg) (v : VWord) (t : Tag) (z : Sens) (x : BitVec 7) :
    (c.push l d v t z x).g = c.g := rfl
@[simp] theorem push_v (c : Ctx) (l : Nat) (d : Reg) (v : VWord) (t : Tag) (z : Sens) (x : BitVec 7) :
    (c.push l d v t z x).v = c.v := rfl
@[simp] theorem push_p (c : Ctx) (l : Nat) (d : Reg) (v : VWord) (t : Tag) (z : Sens) (x : BitVec 7) :
    (c.push l d v t z x).p = c.p := rfl
@[simp] theorem push_m (c : Ctx) (l : Nat) (d : Reg) (v : VWord) (t : Tag) (z : Sens) (x : BitVec 7) :
    (c.push l d v t z x).m = c.m := rfl
@[simp] theorem push_q (c : Ctx) (l : Nat) (d : Reg) (v : VWord) (t : Tag) (z : Sens) (x : BitVec 7) :
    (c.push l d v t z x).q = c.q := rfl
@[simp] theorem push_taskId (c : Ctx) (l : Nat) (d : Reg) (v : VWord) (t : Tag) (z : Sens) (x : BitVec 7) :
    (c.push l d v t z x).taskId = c.taskId := rfl
@[simp] theorem push_nestId (c : Ctx) (l : Nat) (d : Reg) (v : VWord) (t : Tag) (z : Sens) (x : BitVec 7) :
    (c.push l d v t z x).nestId = c.nestId := rfl
@[simp] theorem push_budget (c : Ctx) (l : Nat) (d : Reg) (v : VWord) (t : Tag) (z : Sens) (x : BitVec 7) :
    (c.push l d v t z x).budget = c.budget := rfl
@[simp] theorem push_acyc (c : Ctx) (l : Nat) (d : Reg) (v : VWord) (t : Tag) (z : Sens) (x : BitVec 7) :
    (c.push l d v t z x).acyc = c.acyc := rfl
@[simp] theorem push_frz (c : Ctx) (l : Nat) (d : Reg) (v : VWord) (t : Tag) (z : Sens) (x : BitVec 7) :
    (c.push l d v t z x).frz = c.frz := rfl
@[simp] theorem push_bankStall (c : Ctx) (l : Nat) (d : Reg) (v : VWord) (t : Tag) (z : Sens) (x : BitVec 7) :
    (c.push l d v t z x).bankStall = c.bankStall := rfl
@[simp] theorem push_flags (c : Ctx) (l : Nat) (d : Reg) (v : VWord) (t : Tag) (z : Sens) (x : BitVec 7) :
    (c.push l d v t z x).flags = c.flags := rfl
@[simp] theorem push_frm (c : Ctx) (l : Nat) (d : Reg) (v : VWord) (t : Tag) (z : Sens) (x : BitVec 7) :
    (c.push l d v t z x).frm = c.frm := rfl
@[simp] theorem push_priv (c : Ctx) (l : Nat) (d : Reg) (v : VWord) (t : Tag) (z : Sens) (x : BitVec 7) :
    (c.push l d v t z x).priv = c.priv := rfl
@[simp] theorem push_ppriv (c : Ctx) (l : Nat) (d : Reg) (v : VWord) (t : Tag) (z : Sens) (x : BitVec 7) :
    (c.push l d v t z x).ppriv = c.ppriv := rfl
@[simp] theorem push_tvec (c : Ctx) (l : Nat) (d : Reg) (v : VWord) (t : Tag) (z : Sens) (x : BitVec 7) :
    (c.push l d v t z x).tvec = c.tvec := rfl
@[simp] theorem push_trapPc (c : Ctx) (l : Nat) (d : Reg) (v : VWord) (t : Tag) (z : Sens) (x : BitVec 7) :
    (c.push l d v t z x).trapPc = c.trapPc := rfl
@[simp] theorem push_trapCause (c : Ctx) (l : Nat) (d : Reg) (v : VWord) (t : Tag) (z : Sens) (x : BitVec 7) :
    (c.push l d v t z x).trapCause = c.trapCause := rfl
@[simp] theorem push_trapVal (c : Ctx) (l : Nat) (d : Reg) (v : VWord) (t : Tag) (z : Sens) (x : BitVec 7) :
    (c.push l d v t z x).trapVal = c.trapVal := rfl
@[simp] theorem push_hashKey (c : Ctx) (l : Nat) (d : Reg) (v : VWord) (t : Tag) (z : Sens) (x : BitVec 7) :
    (c.push l d v t z x).hashKey = c.hashKey := rfl
@[simp] theorem push_kslot (c : Ctx) (l : Nat) (d : Reg) (v : VWord) (t : Tag) (z : Sens) (x : BitVec 7) :
    (c.push l d v t z x).kslot = c.kslot := rfl
@[simp] theorem push_age (c : Ctx) (l : Nat) (d : Reg) (v : VWord) (t : Tag) (z : Sens) (x : BitVec 7) :
    (c.push l d v t z x).age = c.age := rfl
@[simp] theorem push_sealState (c : Ctx) (l : Nat) (d : Reg) (v : VWord) (t : Tag) (z : Sens) (x : BitVec 7) :
    (c.push l d v t z x).sealState = c.sealState := rfl
@[simp] theorem push_sealLast (c : Ctx) (l : Nat) (d : Reg) (v : VWord) (t : Tag) (z : Sens) (x : BitVec 7) :
    (c.push l d v t z x).sealLast = c.sealLast := rfl
@[simp] theorem push_sealCause (c : Ctx) (l : Nat) (d : Reg) (v : VWord) (t : Tag) (z : Sens) (x : BitVec 7) :
    (c.push l d v t z x).sealCause = c.sealCause := rfl
@[simp] theorem push_sealBytes (c : Ctx) (l : Nat) (d : Reg) (v : VWord) (t : Tag) (z : Sens) (x : BitVec 7) :
    (c.push l d v t z x).sealBytes = c.sealBytes := rfl
@[simp] theorem push_latchSelW (c : Ctx) (l : Nat) (d : Reg) (v : VWord) (t : Tag) (z : Sens) (x : BitVec 7) :
    (c.push l d v t z x).latchSelW = c.latchSelW := rfl
@[simp] theorem push_latchSelE (c : Ctx) (l : Nat) (d : Reg) (v : VWord) (t : Tag) (z : Sens) (x : BitVec 7) :
    (c.push l d v t z x).latchSelE = c.latchSelE := rfl
@[simp] theorem push_counts (c : Ctx) (l : Nat) (d : Reg) (v : VWord) (t : Tag) (z : Sens) (x : BitVec 7) :
    (c.push l d v t z x).counts = c.counts := rfl
@[simp] theorem push_latchBusy (c : Ctx) (l : Nat) (d : Reg) (v : VWord) (t : Tag) (z : Sens) (x : BitVec 7) :
    (c.push l d v t z x).latchBusy = c.latchBusy := rfl
@[simp] theorem push_held (c : Ctx) (l : Nat) (d : Reg) (v : VWord) (t : Tag) (z : Sens) (x : BitVec 7) :
    (c.push l d v t z x).held = c.held := rfl
@[simp] theorem push_era (c : Ctx) (l : Nat) (d : Reg) (v : VWord) (t : Tag) (z : Sens) (x : BitVec 7) :
    (c.push l d v t z x).era = c.era := rfl
@[simp] theorem push_ops (c : Ctx) (l : Nat) (d : Reg) (v : VWord) (t : Tag) (z : Sens) (x : BitVec 7) :
    (c.push l d v t z x).ops = c.ops := rfl
@[simp] theorem push_reports (c : Ctx) (l : Nat) (d : Reg) (v : VWord) (t : Tag) (z : Sens) (x : BitVec 7) :
    (c.push l d v t z x).reports = c.reports := rfl
@[simp] theorem push_startFault (c : Ctx) (l : Nat) (d : Reg) (v : VWord) (t : Tag) (z : Sens) (x : BitVec 7) :
    (c.push l d v t z x).startFault = c.startFault := rfl
@[simp] theorem push_bubbles (c : Ctx) (l : Nat) (d : Reg) (v : VWord) (t : Tag) (z : Sens) (x : BitVec 7) :
    (c.push l d v t z x).bubbles = c.bubbles := rfl
@[simp] theorem push_block (c : Ctx) (l : Nat) (d : Reg) (v : VWord) (t : Tag) (z : Sens) (x : BitVec 7) :
    (c.push l d v t z x).block = c.block := rfl
@[simp] theorem push_also (c : Ctx) (l : Nat) (d : Reg) (v : VWord) (t : Tag) (z : Sens) (x : BitVec 7) :
    (c.push l d v t z x).also = c.also := rfl
@[simp] theorem push_woken (c : Ctx) (l : Nat) (d : Reg) (v : VWord) (t : Tag) (z : Sens) (x : BitVec 7) :
    (c.push l d v t z x).woken = c.woken := rfl
@[simp] theorem push_ending (c : Ctx) (l : Nat) (d : Reg) (v : VWord) (t : Tag) (z : Sens) (x : BitVec 7) :
    (c.push l d v t z x).ending = c.ending := rfl
@[simp] theorem push_terminating (c : Ctx) (l : Nat) (d : Reg) (v : VWord) (t : Tag) (z : Sens) (x : BitVec 7) :
    (c.push l d v t z x).terminating = c.terminating := rfl
@[simp] theorem push_logged (c : Ctx) (l : Nat) (d : Reg) (v : VWord) (t : Tag) (z : Sens) (x : BitVec 7) :
    (c.push l d v t z x).logged = c.logged := rfl
@[simp] theorem push_cfg (c : Ctx) (l : Nat) (d : Reg) (v : VWord) (t : Tag) (z : Sens) (x : BitVec 7) :
    (c.push l d v t z x).cfg = c.cfg := rfl
@[simp] theorem push_stores (c : Ctx) (l : Nat) (d : Reg) (v : VWord) (t : Tag) (z : Sens) (x : BitVec 7) :
    (c.push l d v t z x).stores = c.stores := rfl
@[simp] theorem push_vis (c : Ctx) (l : Nat) (d : Reg) (v : VWord) (t : Tag) (z : Sens) (x : BitVec 7) :
    (c.push l d v t z x).vis = c.vis := rfl
@[simp] theorem push_phase (c : Ctx) (l : Nat) (d : Reg) (v : VWord) (t : Tag) (z : Sens) (x : BitVec 7) :
    (c.push l d v t z x).phase = c.phase := rfl
@[simp] theorem push_phaseBytes (c : Ctx) (l : Nat) (d : Reg) (v : VWord) (t : Tag) (z : Sens) (x : BitVec 7) :
    (c.push l d v t z x).phaseBytes = c.phaseBytes := rfl
@[simp] theorem push_seen (c : Ctx) (l : Nat) (d : Reg) (v : VWord) (t : Tag) (z : Sens) (x : BitVec 7) :
    (c.push l d v t z x).seen = c.seen := rfl
@[simp] theorem push_seenRels (c : Ctx) (l : Nat) (d : Reg) (v : VWord) (t : Tag) (z : Sens) (x : BitVec 7) :
    (c.push l d v t z x).seenRels = c.seenRels := rfl
@[simp] theorem push_session (c : Ctx) (l : Nat) (d : Reg) (v : VWord) (t : Tag) (z : Sens) (x : BitVec 7) :
    (c.push l d v t z x).session = c.session := rfl
@[simp] theorem push_landed (c : Ctx) (l : Nat) (d : Reg) (v : VWord) (t : Tag) (z : Sens) (x : BitVec 7) :
    (c.push l d v t z x).landed = c.landed := rfl
@[simp] theorem push_scrubs (c : Ctx) (l : Nat) (d : Reg) (v : VWord) (t : Tag) (z : Sens) (x : BitVec 7) :
    (c.push l d v t z x).scrubs = c.scrubs := rfl

end Sys2Proof.Machine
end

