-- ==== Sys2Proof/Laws/Ops.lean ====
section
/-! SUPPORT. What each shared operation of the meanings can do, said once: guards, caps and privilege, traps, the bytes that a change of
contexts leaves, memory operations going in flight, and the acceptance of vector registers. -/

namespace Sys2Proof.Machine

/-! ### Guards, privilege and caps -/

/-- A syllable whose guard is false has no effect. -/
theorem guarded_false {s : State} {gd : Guard} (h : s.cur.guardTrue gd = false) (f : State → Out) : s.guarded gd f = .next s := by
  simp [State.guarded, h]

/-- A privileged syllable in supervisor mode has its effect. -/
theorem privileged_true {s : State} (h : s.cur.priv = true) (f : State → Out) : s.privileged f = f s := by
  simp [State.privileged, h]

/-- In task mode it traps. -/
theorem privileged_false {s : State} (h : s.cur.priv = false) (f : State → Out) : s.privileged f = s.raise 0x03 s.sylWord := by
  simp [State.privileged, h]

/-- A command for which the cap has room is taken. -/
theorem roomFor_ok {s : State} {k : Cls} {n : Nat} (h : s.cur.counts.get k + n ≤ k.cap) (f : State → Out) :
    s.roomFor k n f = f s := by
  simp only [State.roomFor]
  rw [if_neg (by omega)]

/-- One for which it has none blocks. -/
theorem roomFor_full {s : State} {k : Cls} {n : Nat} (h : k.cap < s.cur.counts.get k + n) (f : State → Out) :
    s.roomFor k n f = s.blockOn (.cap k n) := by
  simp [State.roomFor, h]

/-! ### Outcomes that always answer -/

/-- Taking a trap goes on. -/
theorem raise_answers (s : State) (cause : BitVec 8) (val : Word) : Answers (s.raise cause val) := ⟨_, rfl⟩

/-- Blocking goes on. -/
theorem blockOn_answers (s : State) (why : Block) : Answers (s.blockOn why) := ⟨_, rfl⟩

/-- A guarded effect goes on if the effect does. -/
theorem guarded_answers {s : State} {gd : Guard} {f : State → Out} (h : Answers (f s)) : Answers (s.guarded gd f) := by
  unfold State.guarded
  split
  · exact h
  · exact ⟨_, rfl⟩

/-- A privileged effect goes on if the effect does. -/
theorem privileged_answers {s : State} {f : State → Out} (h : Answers (f s)) : Answers (s.privileged f) := by
  unfold State.privileged
  split
  · exact h
  · exact raise_answers _ _ _

/-- A capped effect goes on if the effect does. -/
theorem roomFor_answers {s : State} {k : Cls} {n : Nat} {f : State → Out} (h : Answers (f s)) : Answers (s.roomFor k n f) := by
  unfold State.roomFor
  split
  · exact blockOn_answers _ _
  · exact h

/-! ### Memory that a change of contexts leaves -/

/-- A byte at its home is as before where the four memories are. -/
theorem homeByte_of {s t : State} (h1 : t.hbm = s.hbm) (h2 : t.host = s.host) (h3 : t.peer = s.peer)
    (h4 : t.clusters = s.clusters) (p : Place) (a : Nat) : t.homeByte p a = s.homeByte p a := by
  cases p <;> simp [State.homeByte, h1, h2, h3, State.cluster, h4]

/-- A change of one context changes no byte. -/
theorem sameBytes_modCtx {s u : State} (w : Who) (f : Ctx → Ctx) (h1 : u.hbm = s.hbm) (h2 : u.host = s.host)
    (h3 : u.peer = s.peer) (h4 : u.clusters = s.clusters) (h5 : u.cores = s.cores) : s.SameBytes (u.modCtx w f) := by
  have hc (k : Nat) : u.core k = s.core k := by simp [State.core, h5]
  refine ⟨fun p a => homeByte_of h1 h2 h3 h4 p a, fun k a => ⟨?_, ?_, ?_⟩⟩
  · rw [core_modCtx_field Core.x (fun _ _ => rfl), hc]
  · rw [core_modCtx_field Core.y (fun _ _ => rfl), hc]
  · rw [core_modCtx_field Core.w (fun _ _ => rfl), hc]

/-- A table entry written over another of its number. -/
theorem smap_set_set {α : Type} (m : SMap α) (k : Nat) (a b : α) : SMap.set (SMap.set m k a) k b = SMap.set m k b := by
  induction m with
  | nil => simp [SMap.set]
  | cons e t ih =>
    obtain ⟨j, x⟩ := e
    simp only [SMap.set]
    split
    · simp [SMap.set]
    · split <;> simp [SMap.set, *]

/-- A core written over another. -/
theorem setCore_setCore (s : State) (c : Nat) (k l : Core) : (s.setCore c k).setCore c l = s.setCore c l := by
  simp only [State.setCore, smap_set_set]

/-- A write of one context over a write of it. -/
theorem setCtx_setCtx (s : State) (w : Who) (c d : Ctx) : (s.setCtx w c).setCtx w d = s.setCtx w d := by
  have two (k : Core) : (k.setCtx w.ctx c).setCtx w.ctx d = k.setCtx w.ctx d := by simp [Core.setCtx]
  simp only [State.setCtx, State.modCore]
  rw [core_setCore_self, setCore_setCore, two]

/-- Two changes of one context are one. -/
theorem modCtx_modCtx (s : State) (w : Who) (f g : Ctx → Ctx) : (s.modCtx w f).modCtx w g = s.modCtx w (fun c => g (f c)) := by
  simp only [State.modCtx, ctx_setCtx_self, setCtx_setCtx]

/-- Putting an item on a flow changes flows alone. -/
theorem enqueueFlow_frame (s : State) (w : Who) (part dest : Nat) (i : FlowItem) :
    { s.enqueueFlow w part dest i with flows := s.flows } = s := rfl

/-- So does putting loads on the flows of the dies and packages they read. -/
theorem enqueueLoads_frame (w : Who) (part n : Nat) (ks : List Nat) (s : State) :
    { ks.foldl (fun (v : State) k => v.enqueueFlow w part k (.load w n)) s with flows := s.flows } = s := by
  induction ks generalizing s with
  | nil => rfl
  | cons k ks ih =>
    exact (congrArg (fun v : State => { v with flows := s.flows })
      (ih (s.enqueueFlow w part k (.load w n)))).trans (enqueueFlow_frame s w part k _)

/-- What a load's going in flight says is said of any state with the same contexts, memories and issue. -/
theorem issues_frame {s t u : State} {k : OpKind} {va : Nat} {sens : Sens} {res : Option OpResult} {cls : Cls}
    (h : { u with flows := t.flows } = t) (hi : s.Issues t k va sens res cls) : s.Issues u k va sens res cls := by
  rw [← h] at hi
  exact hi

/-- A load whose pieces are reached goes in flight, on a state that differs in nothing a context or a memory holds. -/
theorem issues_issueLoad {s u : State} (hu : u.cores = s.cores) (h1 : u.hbm = s.hbm) (h2 : u.host = s.host)
    (h3 : u.peer = s.peer) (h4 : u.clusters = s.clusters) (hi : u.issue = s.issue) (ps : List Piece) (dest : Reg) (fmt : Tag)
    (va : Nat) (sens : Sens) (hl : ps.map u.loadUnit = ps.map s.loadUnit) :
    s.Issues (u.issueLoad ps dest fmt va sens) (.load (ps.map s.loadUnit) dest fmt) va sens none .gl := by
  have hw : u.who = s.who := by simp [State.who, hi]
  have hc (w : Who) : u.ctx w = s.ctx w := by simp [State.ctx, State.core, hu]
  let op (c : Ctx) : VlOp :=
    ⟨c.seq, c.era, u.serial, .load (ps.map s.loadUnit) dest fmt, va, sens, 0, .core, c.phase, c.vis, none, none, none,
      c.landed.filter (fun d => (OpKind.load (ps.map s.loadUnit) dest fmt).dests.contains d), 0⟩
  let f (c : Ctx) : Ctx := Ctx.bump { c with ops := c.ops ++ [op c], seq := c.seq + 1 } .gl 1
  let v : State := ({ u with serial := u.serial + 1 } : State).modCtx u.who
    (fun c => { c with ops := c.ops ++ [op c], seq := c.seq + 1 })
  have e : v.modCur (fun c => c.bump .gl 1) = ({ u with serial := u.serial + 1 } : State).modCtx s.who f := by
    rw [← hw]
    exact modCtx_modCtx _ _ _ _
  have ec : (({ u with serial := u.serial + 1 } : State).modCtx s.who f).cur = f s.cur := by
    have hs : ({ u with serial := u.serial + 1 } : State).ctx s.who = s.cur := hc s.who
    unfold State.cur
    rw [show (({ u with serial := u.serial + 1 } : State).modCtx s.who f).who = s.who from hw, ctx_modCtx_self, hs]
    rfl
  rw [State.issueLoad, hl]
  refine issues_frame (t := v.modCur (fun c => c.bump .gl 1))
    (congrArg (fun x : State => x.modCur (fun c => c.bump .gl 1)) (enqueueLoads_frame u.who _ _ _ v)) ?_
  rw [e]
  unfold State.Issues
  rw [ec]
  refine ⟨⟨op s.cur, rfl, rfl, rfl, rfl, rfl, rfl, rfl, rfl⟩, ?_, ?_, rfl, sameBytes_modCtx _ _ h1 h2 h3 h4 hu, ?_⟩
  · simp [Ctx.SameControl, Ctx.SameTrap, Ctx.SameTask, Ctx.bump, f]
  · simp [Ctx.SameRegs, Ctx.bump, f]
  · intro w hw'
    rw [ctx_modCtx_ne _ _ hw']
    exact hc w

/-! ### Vector registers -/

/-- A vector syllable whose registers are accepted has its effect. -/
theorem vissue_ok {s : State} {rd wr : List (BitVec 5)} {ch : List (Bool × Word)} (h : s.accepts rd wr ch = true)
    (f : State → Out) : s.vissue rd wr ch f = f s := by
  simp only [State.accepts, Bool.and_eq_true, List.all_eq_true] at h
  obtain ⟨⟨h1, h2⟩, h3⟩ := h
  simp only [State.vissue]
  rw [if_neg, show ch.find? (fun c => !c.1) = none from by simpa using h3]
  simp only [Bool.not_eq_true, Bool.or_eq_false_iff, List.any_eq_false]
  refine ⟨fun x hx => ?_, fun x hx => ?_⟩
  · have := h1 x hx
    simpa [Option.isSome_iff_ne_none] using this
  · have := h2 x hx
    simpa using this

/-- An element-wise syllable of accepted registers puts its result. -/
theorem elementwise_ok {s : State} {gd : Guard} (hg : s.cur.guardTrue gd = true) {l : Nat} {t : Tag} {d : BitVec 5} {z mv : Bool}
    {srcs : List (BitVec 5)} {f : State → Nat → Nat × BitVec 7} (h : s.lanesOk t srcs d z mv = true) :
    s.elementwise gd l t d z srcs mv f =
      .next (s.vput l t d z (s.vsens (laneReads srcs d z) z .pub) ((List.range (2048 / opBits t)).map (f s))) := by
  simp only [State.elementwise, guarded_true hg]
  exact vissue_ok h _

/-- The width of the elements of a type that is not raw. -/
theorem opBits_pos {t : Tag} (h : typeIn 1 15 t = true) : opBits t = tagBits t := by
  simp only [opBits]
  rw [if_neg]
  rintro rfl
  simp [typeIn] at h

end Sys2Proof.Machine
end

