-- ==== Sys2Proof/Tests/Slice0.lean ====
section
/-! SUPPORT. Tests of the model: decoding, the checks of well-formedness, single steps, and a state for the hypotheses of every
statement. -/

namespace Sys2Proof.Tests
set_option Elab.async false
open Sys2Proof Sys2Proof.Machine

/-- A check that succeeds has a result. -/
theorem ok_of {ε α : Type} {x : Except ε α} (h : x.isOk = true) : ∃ v, x = .ok v := by
  cases x with
  | error e => simp [Except.isOk, Except.toBool] at h
  | ok v => exact ⟨v, rfl⟩

/-- Fetched words, from a test of them. -/
theorem fetched_ok {f : Fetch} {ws : List Nat} (h : (match f with
    | .ok v => some v
    | _ => none) = some ws) : f = .ok ws := by cases f <;> simp_all

/-- An engine access that succeeds gives a value and a state that a test accepts. -/
theorem eng_ok_of {α : Type} {x : Eng α} {P : α → State → Bool} (h : (match x with
    | .ok v t => P v t
    | _ => false) = true) : ∃ v t, x = .ok v t ∧ P v t = true := by
  cases x with
  | ok v t => exact ⟨v, t, rfl, h⟩
  | wait t => exact absurd h (by simp)
  | fail c a t => exact absurd h (by simp)

/-- What a store by an engine comes to. -/
theorem stored_of {x : Eng Unit × Written} (h : (match x.1 with
    | .ok _ _ => true
    | _ => false) = true) : ∃ v l, x = (.ok () v, l) := by
  obtain ⟨r, l⟩ := x
  cases r with
  | ok u v => exact ⟨v, l, rfl⟩
  | wait t => exact absurd h (by simp)
  | fail c a t => exact absurd h (by simp)

/-- What a test says of the pages that an access reaches. -/
theorem reached_of {x : Except (BitVec 8 × Word) (List Piece) ⊕ List Miss} {P : List Piece → Bool} (h : (match x with
    | .inl (.ok ps) => P ps
    | _ => false) = true) : ∃ ps, x = .inl (.ok ps) ∧ P ps = true := by
  obtain (e | ps) | ms := x
  · exact absurd h (by simp)
  · exact ⟨ps, rfl, h⟩
  · exact absurd h (by simp)

/-- What a test says of the next bundle of a context. -/
theorem slots_of {x : Option (List Nat × List Slot)} {P : List Nat → List Slot → Bool} (h : (match x with
    | some (ws, sl) => P ws sl
    | none => false) = true) : ∃ ws sl, x = some (ws, sl) ∧ P ws sl = true := by
  obtain _ | ⟨ws, sl⟩ := x
  · exact absurd h (by simp)
  · exact ⟨ws, sl, rfl, h⟩
/-! ### Decoding: a word for each syllable, written out from the fields that its row of the opcode table gives, with guard !p3 and S = 1
(R275 to R284 and the reference entries). -/

theorem test_decode_scalar_register :
    decodeTableWord 32 0xB80AA9A0 = some (.add ⟨3, true⟩ 21 10 13) ∧
    decodeTableWord 32 0xB82AA9A0 = some (.and ⟨3, true⟩ 21 10 13) ∧
    decodeTableWord 32 0xB85AA9A0 = some (.andn ⟨3, true⟩ 21 10 13) ∧
    decodeTableWord 32 0xB97AA800 = some (.clz ⟨3, true⟩ 21 10) ∧
    decodeTableWord 32 0xB8BAA9A1 = some (.div ⟨3, true⟩ 21 10 13 true) ∧
    decodeTableWord 32 0xB8CAA9A1 = some (.rem ⟨3, true⟩ 21 10 13 true) ∧
    decodeTableWord 32 0xB8EAA9A1 = some (.max ⟨3, true⟩ 21 10 13 true) ∧
    decodeTableWord 32 0xB8DAA9A1 = some (.min ⟨3, true⟩ 21 10 13 true) ∧
    decodeTableWord 32 0xB89AA9A0 = some (.mul ⟨3, true⟩ 21 10 13) ∧
    decodeTableWord 32 0xB8AAA9A1 = some (.mulh ⟨3, true⟩ 21 10 13 true) ∧
    decodeTableWord 32 0xB83AA9A0 = some (.or ⟨3, true⟩ 21 10 13) ∧
    decodeTableWord 32 0xB98AA800 = some (.popc ⟨3, true⟩ 21 10) ∧
    decodeTableWord 32 0xB84AA9A0 = some (.xor ⟨3, true⟩ 21 10 13) ∧
    decodeTableWord 32 0xB81AA9A0 = some (.sub ⟨3, true⟩ 21 10 13) ∧
    decodeTableWord 32 0xB86AA9A0 = some (.shl ⟨3, true⟩ 21 10 13) ∧
    decodeTableWord 32 0xB87AA9A0 = some (.shr ⟨3, true⟩ 21 10 13) ∧
    decodeTableWord 32 0xB88AA9A0 = some (.shra ⟨3, true⟩ 21 10 13) ∧
    decodeTableWord 32 0xB8FAA9A5 = some (.sel ⟨3, true⟩ 21 10 13 5) := by decide

theorem test_decode_scalar_immediate :
    decodeTableWord 32 0xB90AAAA5 = some (.addi ⟨3, true⟩ 21 10 0x2a5 none) ∧
    decodeTableWord 32 0xB91AAAA5 = some (.andi ⟨3, true⟩ 21 10 0x2a5 none) ∧
    decodeTableWord 32 0xB92AAAA5 = some (.ori ⟨3, true⟩ 21 10 0x2a5 none) ∧
    decodeTableWord 32 0xB93AA825 = some (.shli ⟨3, true⟩ 21 10 37 none) ∧
    decodeTableWord 32 0xB94AA86A = some (.shri ⟨3, true⟩ 21 10 true 42 none) ∧
    decodeTableWord 32 0xB95ADA5A = some (.li ⟨3, true⟩ 21 0x5a5a none) ∧
    decodeTableWord 32 0xB96AAB2B = some (.lih ⟨3, true⟩ 21 0x2b2b none) ∧
    decodeTableWord 32 0xB99D24B9 = some (.cmp ⟨3, true⟩ 6 18 9 7 1) ∧
    decodeTableWord 32 0xB9AB2BB1 = some (.cmpi ⟨3, true⟩ 5 18 23 6 1) ∧
    decodeTableWord 32 0xB9BC51B8 = some (.plog ⟨3, true⟩ 6 5 3 7) := by decide

theorem test_decode_control :
    decodeTableWord 32 0xBA0FFFFA = some (.bra ⟨3, true⟩ 0xffffa) ∧
    decodeTableWord 32 0xBA112345 = some (.call ⟨3, true⟩ 0x12345) ∧
    decodeTableWord 32 0xBA202800 = some (.jr ⟨3, true⟩ 10) ∧
    decodeTableWord 32 0xBA300000 = some (.ret ⟨3, true⟩) ∧
    decodeTableWord 32 0xBA4AFFFB = some (.loop ⟨3, true⟩ 21 0x7ffb none) ∧
    decodeTableWord 32 0xBA500000 = some (.endTask ⟨3, true⟩) ∧
    decodeTableWord 32 0xBA600000 = some (.nop ⟨3, true⟩) ∧
    decodeTableWord 32 0xBA71248E = some (.waitn ⟨3, true⟩ 1 2 4 8 14) ∧
    decodeTableWord 32 0xBA900012 = some (.fence ⟨3, true⟩ 2 1) ∧
    decodeTableWord 32 0xBA862822 = some (.cwait ⟨3, true⟩ 12 10 4 1) ∧
    decodeTableWord 32 0xBAA0281B = some (.trap ⟨3, true⟩ 10 27 none) ∧
    decodeTableWord 32 0xBAB002A7 = some (.bkpt ⟨3, true⟩ 0x2a7 none) ∧
    decodeTableWord 32 0xBFA00000 = some (.tretn ⟨3, true⟩) ∧
    decodeTableWord 32 0xBF809260 = some (.cget ⟨3, true⟩ 36 19) ∧
    decodeTableWord 32 0xBF913E60 = some (.cset ⟨3, true⟩ 79 19 none) ∧
    decodeTableWord 32 0xBFB00260 = some (.decl ⟨3, true⟩ 19) ∧
    decodeTableWord 32 0xBFC00300 = some (.rstr ⟨3, true⟩ 24) := by decide

theorem test_decode_memory :
    decodeTableWord 32 0xBB0636D6 = some (.ld ⟨3, true⟩ 12 13 5 2 22) ∧
    decodeTableWord 32 0xBB163679 = some (.st ⟨3, true⟩ 12 13 4 3 25) ∧
    decodeTableWord 32 0xBB26365B = some (.vld ⟨3, true⟩ 12 13 4 11 false 3) ∧
    decodeTableWord 32 0xBB3135C6 = some (.vst ⟨3, true⟩ 2 13 3 8 true 2) ∧
    decodeTableWord 32 0xBB463A60 = some (.vlds ⟨3, true⟩ 12 14 4 12) ∧
    decodeTableWord 32 0xBB563638 = some (.vgth ⟨3, true⟩ 12 13 4 7) ∧
    decodeTableWord 32 0xBB6634C8 = some (.vsct ⟨3, true⟩ 12 13 1 9) ∧
    decodeTableWord 32 0xBB7534E5 = some (.probe ⟨3, true⟩ 10 13 7 5) ∧
    decodeTableWord 32 0xBB862A27 = some (.amo ⟨3, true⟩ 12 10 8 4 3 true) ∧
    decodeTableWord 32 0xBB962AA5 = some (.cas ⟨3, true⟩ 12 10 5 4 2 true) ∧
    decodeTableWord 32 0xBBA62ADF = some (.casl ⟨3, true⟩ 12 10 5 true 3 3 true) ∧
    decodeTableWord 32 0xBBB62AA5 = some (.red ⟨3, true⟩ 12 10 10 4 2 true) ∧
    decodeTableWord 32 0xBBC62824 = some (.cadv ⟨3, true⟩ 12 10 4 2) ∧
    decodeTableWord 32 0xBBD62822 = some (.cread ⟨3, true⟩ 12 10 4 1) := by decide

theorem test_decode_vector_integer :
    decodeTableWord 32 0xBC02AA9B = some (.vadd ⟨3, true⟩ 2 21 10 13 true) ∧
    decodeTableWord 32 0xBC12AA9B = some (.vsub ⟨3, true⟩ 2 21 10 13 true) ∧
    decodeTableWord 32 0xBC22AA9B = some (.vmul ⟨3, true⟩ 2 21 10 13 true) ∧
    decodeTableWord 32 0xBC32AA9B = some (.vmulh ⟨3, true⟩ 2 21 10 13 true) ∧
    decodeTableWord 32 0xBC42AA9B = some (.vmad ⟨3, true⟩ 2 21 10 13 true) ∧
    decodeTableWord 32 0xBC52AA9B = some (.vmin ⟨3, true⟩ 2 21 10 13 true) ∧
    decodeTableWord 32 0xBC62AA9B = some (.vmax ⟨3, true⟩ 2 21 10 13 true) ∧
    decodeTableWord 32 0xBC73AA81 = some (.vabs ⟨3, true⟩ 3 21 10 true) ∧
    decodeTableWord 32 0xBC8DAA9B = some (.vand ⟨3, true⟩ 13 21 10 13 true) ∧
    decodeTableWord 32 0xBC90AA9B = some (.vor ⟨3, true⟩ 0 21 10 13 true) ∧
    decodeTableWord 32 0xBCABAA9B = some (.vxor ⟨3, true⟩ 11 21 10 13 true) ∧
    decodeTableWord 32 0xBCB2AA9B = some (.vshl ⟨3, true⟩ 2 21 10 13 true) ∧
    decodeTableWord 32 0xBCC2AA9B = some (.vshr ⟨3, true⟩ 2 21 10 13 true) ∧
    decodeTableWord 32 0xBCD2AA9B = some (.vrshr ⟨3, true⟩ 2 21 10 13 true) ∧
    decodeTableWord 32 0xBCE4328B = some (.vcmp ⟨3, true⟩ 4 6 10 5 true) ∧
    decodeTableWord 32 0xBCF6AA9A = some (.vsel ⟨3, true⟩ 6 21 10 13) := by decide

theorem test_decode_vector_float :
    decodeTableWord 32 0xBD09AA9B = some (.vfadd ⟨3, true⟩ 9 21 10 13 true) ∧
    decodeTableWord 32 0xBD19AA9B = some (.vfsub ⟨3, true⟩ 9 21 10 13 true) ∧
    decodeTableWord 32 0xBD29AA9B = some (.vfmul ⟨3, true⟩ 9 21 10 13 true) ∧
    decodeTableWord 32 0xBD39AA9B = some (.vfma ⟨3, true⟩ 9 21 10 13 true) ∧
    decodeTableWord 32 0xBD49AA9B = some (.vfmin ⟨3, true⟩ 9 21 10 13 true) ∧
    decodeTableWord 32 0xBD59AA9B = some (.vfmax ⟨3, true⟩ 9 21 10 13 true) ∧
    decodeTableWord 32 0xBD693287 = some (.vfcmp ⟨3, true⟩ 9 6 10 3 true) ∧
    decodeTableWord 32 0xBF09AA9D = some (.vclamp ⟨3, true⟩ 9 21 10 14 true) ∧
    decodeTableWord 32 0xBDE5AA9B = some (.vdot ⟨3, true⟩ 21 10 13 true) ∧
    decodeTableWord 32 0xBDFAAA9B = some (.vfdot ⟨3, true⟩ 21 10 13 true) := by decide

theorem test_decode_vector_move :
    decodeTableWord 32 0xBF1EAA81 = some (.vbcast ⟨3, true⟩ 14 21 10 true) ∧
    decodeTableWord 32 0xBF2CAA9A = some (.vext ⟨3, true⟩ 12 21 10 13) ∧
    decodeTableWord 32 0xBF32AA9A = some (.vins ⟨3, true⟩ 2 21 10 13) ∧
    decodeTableWord 32 0xBD7AAA93 = some (.vcvt ⟨3, true⟩ 10 21 10 9 true) ∧
    decodeTableWord 32 0xBD8DAA80 = some (.vcast ⟨3, true⟩ 13 21 10) ∧
    decodeTableWord 32 0xBD98AA8F = some (.vcbx ⟨3, true⟩ 21 10 1 3 true) ∧
    decodeTableWord 32 0xBF48AA9B = some (.vperm ⟨3, true⟩ 8 21 10 13 true) ∧
    decodeTableWord 32 0xBF50AA8F = some (.vslide ⟨3, true⟩ 0 21 10 7 true) ∧
    decodeTableWord 32 0xBDAFAA88 = some (.vpk5 ⟨3, true⟩ 21 10 4) ∧
    decodeTableWord 32 0xBDB1AA86 = some (.vupk5 ⟨3, true⟩ 21 10 3) ∧
    decodeTableWord 32 0xBDCAAA85 = some (.vred ⟨3, true⟩ 10 21 10 2 true) ∧
    decodeTableWord 32 0xBDD6AA81 = some (.vscan ⟨3, true⟩ 6 21 10 true) := by decide

theorem test_decode_array_and_engines :
    decodeTableWord 32 0xBE050000 = some (.wld ⟨3, true⟩ 10) ∧
    decodeTableWord 32 0xBE1534EB = some (.mms ⟨3, true⟩ 10 13 7 11) ∧
    decodeTableWord 32 0xBE2534E0 = some (.mdrn ⟨3, true⟩ 10 13 7) ∧
    decodeTableWord 32 0xBE450000 = some (.mcfg ⟨3, true⟩ 10) ∧
    decodeTableWord 32 0xBE350000 = some (.mscl ⟨3, true⟩ 10) ∧
    decodeTableWord 32 0xBE5534E9 = some (.sfx ⟨3, true⟩ 10 13 7 9) ∧
    decodeTableWord 32 0xBE650000 = some (.sfcfg ⟨3, true⟩ 10) ∧
    decodeTableWord 32 0xBE7C3A26 = some (.cpy ⟨3, true⟩ 24 14 17 true 2) ∧
    decodeTableWord 32 0xBE9E3A22 = some (.cpyg ⟨3, true⟩ 28 14 17 false 2) ∧
    decodeTableWord 32 0xBE8C7A25 = some (.cpyx ⟨3, true⟩ 24 30 17 true 1) ∧
    decodeTableWord 32 0xBEAC362E = some (.coll ⟨3, true⟩ 24 13 17 3 2) ∧
    decodeTableWord 32 0xBEB53800 = some (.spawn ⟨3, true⟩ 10 14) ∧
    decodeTableWord 32 0xBECA00E0 = some (.sealOpen ⟨3, true⟩ 20 7) ∧
    decodeTableWord 32 0xBECA38E9 = some (.absorb ⟨3, true⟩ 20 14 7 2) ∧
    decodeTableWord 32 0xBEC00002 = some (.sealClose ⟨3, true⟩) ∧
    decodeTableWord 32 0xBEDA34E0 = some (.scrub ⟨3, true⟩ 20 13 7) ∧
    decodeTableWord 32 0xBEE534E0 = some (.krot ⟨3, true⟩ 10 13 7) ∧
    decodeTableWord 32 0xBEFA0120 = some (.ckpt ⟨3, true⟩ 20 9) := by decide

/-- LIMM, and the words that a LIMM extends (R279): the payload and the extended syllable. -/
theorem test_decode_limm :
    decodeTableWord 32 0x87FABCDE = some (.limm 0xABCDE) ∧
    decodeWords [0x010AAAA5, 0x87FABCDE] = some (.addi .always 21 10 0x2A5 (some 0xABCDE)) ∧
    decodeWords [0x015A8001, 0x87F00001] = some (.li .always 21 1 (some 1)) := by decide

/-- A reserved OP decodes to no instruction, and a reserved field is refused (R278, R284). -/
theorem test_decode_reserved :
    decodeTableWord 32 0x80298CE1 = none ∧ decodeTableWord 32 0x81D00000 = none ∧ decodeTableWord 32 0x88000000 = none := by decide

/-! ### Well-formedness: an ill-formed term for each check (R275, R278, R279, R284 and the reference entries) -/

/-- PG = 0 with PN = 1 is reserved. -/
theorem test_ill_guard : wellFormed (.nop ⟨0, true⟩) = false ∧ wellFormed (.nop ⟨0, false⟩) = true := by decide

/-- A payload that the extended entry refuses. -/
theorem test_ill_payload :
    wellFormed (.shli .always 1 2 3 (some 1)) = false ∧ wellFormed (.shri .always 1 2 false 3 (some 1)) = false ∧
    wellFormed (.trap .always 1 2 (some 1)) = false ∧ wellFormed (.shli .always 1 2 3 (some 0)) = true := by decide

/-- Functions, conditions and orders. -/
theorem test_ill_functions :
    wellFormed (.amo .always 1 2 9 0 0 false) = false ∧ wellFormed (.amo .always 1 2 8 5 1 false) = false ∧
    wellFormed (.amo .always 1 2 8 1 0 false) = false ∧ wellFormed (.red .always 1 2 8 0 0 true) = false ∧
    wellFormed (.red .always 1 2 9 0 0 false) = false ∧ wellFormed (.red .always 1 2 1 0 1 false) = false ∧
    wellFormed (.red .always 1 2 1 6 2 false) = false ∧ wellFormed (.cmp .always 1 2 3 8 0) = false ∧
    wellFormed (.cmp .always 1 2 3 7 2) = false ∧ wellFormed (.cmpi .always 1 2 3 8 0) = false ∧
    wellFormed (.cmpi .always 1 2 3 7 2) = false ∧ wellFormed (.plog .always 1 2 3 8) = false ∧
    wellFormed (.sfx .always 1 2 3 10) = false ∧ wellFormed (.mms .always 1 2 3 16) = false ∧
    wellFormed (.mms .always 1 2 3 12) = false ∧ wellFormed (.vcmp .always 1 1 2 6 false) = false ∧
    wellFormed (.vfcmp .always 8 1 2 6 false) = false ∧ wellFormed (.vred .always 1 2 3 3 false) = false ∧
    wellFormed (.vpk5 .always 1 2 5) = false ∧ wellFormed (.vupk5 .always 1 2 5) = false := by decide

/-- Scopes and orders of the ordering syllables. -/
theorem test_ill_orders :
    wellFormed (.cadv .always 1 2 5 0) = false ∧ wellFormed (.cadv .always 1 2 0 1) = false ∧
    wellFormed (.cread .always 1 2 1 0) = false ∧ wellFormed (.cread .always 1 2 0 2) = false ∧
    wellFormed (.cwait .always 1 2 5 0) = false ∧ wellFormed (.cwait .always 1 2 0 3) = false ∧
    wellFormed (.fence .always 5 1) = false ∧ wellFormed (.fence .always 0 0) = false ∧
    wellFormed (.cas .always 2 2 1 1 0 false) = false ∧ wellFormed (.casl .always 4 2 1 false 2 2 false) = false ∧
    wellFormed (.casl .always 4 2 1 false 3 1 false) = false := by decide

/-- Groups and pairs of registers, and registers that must not be zero. -/
theorem test_ill_registers :
    wellFormed (.cas .always 1 2 1 0 0 false) = false ∧ wellFormed (.casl .always 2 2 1 false 3 2 false) = false ∧
    wellFormed (.ckpt .always 2 1) = false ∧ wellFormed (.coll .always 2 1 1 0 0) = false ∧
    wellFormed (.cpy .always 2 2 1 false 0) = false ∧ wellFormed (.cpy .always 4 1 1 false 0) = false ∧
    wellFormed (.cpyx .always 2 2 1 false 0) = false ∧ wellFormed (.cpyx .always 4 1 1 false 0) = false ∧
    wellFormed (.cpyg .always 2 2 1 false 0) = false ∧ wellFormed (.cpyg .always 4 1 1 false 0) = false ∧
    wellFormed (.cpyg .always 4 0 1 false 0) = false ∧ wellFormed (.loop .always 0 1 none) = false ∧
    wellFormed (.probe .always 1 2 3 0) = false ∧ wellFormed (.rstr .always 2) = false ∧
    wellFormed (.scrub .always 2 1 1) = false ∧ wellFormed (.sealOpen .always 2 1) = false ∧
    wellFormed (.absorb .always 2 2 1 0) = false ∧ wellFormed (.absorb .always 4 1 1 0) = false ∧
    wellFormed (.spawn .always 1 1) = false ∧ wellFormed (.vclamp .always 1 1 2 3 false) = false ∧
    wellFormed (.vcmp .always 1 1 3 1 false) = false ∧ wellFormed (.vfcmp .always 8 1 3 1 false) = false ∧
    wellFormed (.vslide .always 1 2 3 0 false) = false ∧ wellFormed (.vlds .always 2 1 0 1) = false ∧
    wellFormed (.vgth .always 1 2 0 1) = false ∧ wellFormed (.vsct .always 1 2 0 1) = false ∧
    wellFormed (.coll .always 4 1 1 4 0) = false := by decide

/-- Spaces, the codebook form and control registers. -/
theorem test_ill_spaces :
    wellFormed (.ld .always 1 2 6 0 0) = false ∧ wellFormed (.st .always 1 2 7 0 0) = false ∧
    wellFormed (.vld .always 1 2 6 1 false 0) = false ∧ wellFormed (.vld .always 4 2 0 8 true 0) = false ∧
    wellFormed (.vld .always 1 2 0 1 true 0) = false ∧ wellFormed (.vst .always 1 2 6 1 false 0) = false ∧
    wellFormed (.vst .always 4 2 0 8 true 0) = false ∧ wellFormed (.vst .always 1 2 0 1 true 0) = false ∧
    wellFormed (.vlds .always 2 2 6 1) = false ∧ wellFormed (.vgth .always 2 2 6 1) = false ∧
    wellFormed (.vsct .always 2 2 6 1) = false ∧ wellFormed (.cget .always 3 1) = false ∧
    wellFormed (.cset .always 0x25 1 none) = false ∧ wellFormed (.cset .always 0x10 1 (some 1)) = false := by decide

/-- Types that an entry does not allow. -/
theorem test_ill_types :
    wellFormed (.vabs .always 2 1 1 false) = false ∧ wellFormed (.vadd .always 0 1 1 1 false) = false ∧
    wellFormed (.vsub .always 8 1 1 1 false) = false ∧ wellFormed (.vmul .always 8 1 1 1 false) = false ∧
    wellFormed (.vmulh .always 9 1 1 1 false) = false ∧ wellFormed (.vmad .always 0 1 1 1 false) = false ∧
    wellFormed (.vmax .always 10 1 1 1 false) = false ∧ wellFormed (.vmin .always 11 1 1 1 false) = false ∧
    wellFormed (.vshl .always 0 1 1 1 false) = false ∧ wellFormed (.vshr .always 8 1 1 1 false) = false ∧
    wellFormed (.vrshr .always 13 1 1 1 false) = false ∧ wellFormed (.vbcast .always 15 1 1 false) = false ∧
    wellFormed (.vext .always 13 1 1 1) = false ∧ wellFormed (.vins .always 0 1 1 1) = false ∧
    wellFormed (.vperm .always 0 1 1 1 false) = false ∧ wellFormed (.vcvt .always 13 1 1 1 false) = false ∧
    wellFormed (.vcvt .always 1 1 1 0 false) = false ∧ wellFormed (.vclamp .always 11 1 1 2 false) = false ∧
    wellFormed (.vcmp .always 8 1 2 1 false) = false ∧ wellFormed (.vfcmp .always 7 1 2 1 false) = false ∧
    wellFormed (.vfadd .always 7 1 1 1 false) = false ∧ wellFormed (.vfsub .always 11 1 1 1 false) = false ∧
    wellFormed (.vfmul .always 0 1 1 1 false) = false ∧ wellFormed (.vfma .always 5 1 1 1 false) = false ∧
    wellFormed (.vfmin .always 7 1 1 1 false) = false ∧ wellFormed (.vfmax .always 12 1 1 1 false) = false ∧
    wellFormed (.vred .always 11 1 1 1 false) = false ∧ wellFormed (.vscan .always 0 1 1 false) = false ∧
    wellFormed (.vlds .always 2 2 0 13) = false ∧ wellFormed (.vgth .always 2 2 0 0) = false ∧
    wellFormed (.vsct .always 2 2 0 13) = false := by decide


/-! ### States of small programs -/

/-- A task of partition 0 stands at a placed NOP in context 0 of core 0, which is also the context of the issue record. -/
def base : State := State.reset.placeCode [0x82600000]

/-- The context at work. -/
def me : Who := ⟨0, 0⟩

/-- A g register set, with PUB. -/
def setG (s : State) (r : BitVec 5) (v : Word) : State := s.modCtx me (fun c => c.writeReg (.g r) (v.setWidth 2048) 0 .pub)

/-- A g register set, with TEN. -/
def setTen (s : State) (r : BitVec 5) (v : Word) : State := s.modCtx me (fun c => c.writeReg (.g r) (v.setWidth 2048) 0 .ten)

/-- A v register set, with a type. -/
def setV (s : State) (r : BitVec 5) (n : Nat) (t : Tag) : State :=
  s.modCtx me (fun c => c.writeReg (.v r) (BitVec.ofNat 2048 n) t .pub)

/-- The partition with a counter quota of 16 on die 0, a group of one rank, pool and Wellhead shares. -/
def richPart : PartDesc :=
  { codePart with quota := [(0, 16)], collGroups := [(1, [Config.packageNumber ++ 0#16])], poolShare := 4, wellShare := 4 }

/-- A window of 512 KiB in cluster 0, and the partition's quotas. -/
def rich : State :=
  { base with parts := [(0, richPart)], clusters := [(0, { Cluster.reset with windows := [(0, 0x8400)] })] }

/-- Supervisor mode. -/
def sup (s : State) : State := s.modCtx me (fun c => { c with priv := true })

/-- Key slots. -/
def withKey (s : State) (k : Nat) (ty : BitVec 3) : State := s.modKey k (fun q => { q with ty := ty })

/-! ### One step -/

/-- R294: addition wraps; R318: the arithmetic shift takes the amount modulo 64. -/
theorem test_add_wraps : ((exec (.add .always 5 6 7) (setG (setG base 6 (BitVec.allOnes 64)) 7 3)) =
    .next ((setG (setG base 6 (BitVec.allOnes 64)) 7 3).pushG 1 5 2 .pub)) := rfl

/-- R294: a zero divisor gives all ones, and the remainder the dividend. -/
theorem test_div_by_zero :
    exec (.div .always 5 6 7 false) (setG base 6 42) = .next ((setG base 6 42).pushG 20 5 (BitVec.allOnes 64) .pub) ∧
    exec (.rem .always 5 6 7 false) (setG base 6 42) = .next ((setG base 6 42).pushG 20 5 42 .pub) := by
  constructor <;> rfl

/-- A state that a step reaches. -/
def after (o : Out) : State := match o with
  | .next t => t
  | _ => State.reset

/-- R18: ADDI placed by withFetchWord issues in one step, and its result lands as its own active cycle ends. -/
theorem test_step_runs_addi :
    ((after (step (State.reset.withFetchWord 32 0x81028005))).ctx me).gv 5 = 5 ∧
    ((after (step (State.reset.withFetchWord 32 0x81028005))).ctx me).pc = 0x10004 ∧
    ((after (step (State.reset.withFetchWord 32 0x81028005))).ctx me).acyc = 1 := by decide +kernel

/-- R27: a taken BRA leaves the pc at its target and two bubbles to come. -/
theorem test_step_branch :
    ((after (step (State.reset.withFetchWord 32 0x82000010))).ctx me).pc = 0x10040 ∧
    ((after (step (State.reset.withFetchWord 32 0x82000010))).ctx me).bubbles = 2 := by decide +kernel

/-- R200, R363: TRAP 1 enters the handler with cause 0x21. -/
theorem test_step_trap :
    ((after (step (State.reset.withFetchWord 32 0x82A00001))).ctx me).trapCause = 0x21 ∧
    ((after (step (State.reset.withFetchWord 32 0x82A00001))).ctx me).priv = true ∧
    ((after (step (State.reset.withFetchWord 32 0x82A00001))).ctx me).trapPc = 0x10000 := by decide +kernel

/-- R284: a reserved OP raises the illegal-encoding trap with its word. -/
theorem test_step_illegal :
    ((after (step (State.reset.withFetchWord 32 0x81D00000))).ctx me).trapCause = 1 ∧
    ((after (step (State.reset.withFetchWord 32 0x81D00000))).ctx me).trapVal = 0x81D00000 := by decide +kernel

/-- R90: a byte stored to X is there after its bundle: ST from g1 at g0. -/
theorem test_step_store :
    ((after (step (setG (State.reset.withFetchWord 32 0x83108000) 1 0xAB))).core 0).x = [(0, 0xAB#8)] := by decide +kernel

/-- R387: VRSHR rounds half up; R64: s8 lanes wrap. -/
theorem test_vector_lanes :
    wrapInt 8 (readInt 1 0x7F + readInt 1 1) = 0x80 ∧ wrapInt 8 ((readInt 1 0xFD + 1) / 2) = 0xFF := by decide

/-- R68: 1 + 2^-8 in bf16 rounds to even; R122: the sum of an unsigned word wraps. -/
theorem test_float_and_atomic :
    (bf16Fmt.add 0 0x3F80 0x3B80).1 = 0x3F80 ∧ (f32Fmt.add 0 0x3F800000 0x3F800000).1 = 0x40000000 ∧
    amoFn 0 false 0xFFFFFFFF 2 = 1 ∧ amoFn 1 false 0xFFFFFFFF 2 = 0xFFFFFFFF := by decide +kernel

/-- R83, R150: the trits of a plane byte. -/
theorem test_trits : (List.range 5).map (tritOf (BitVec.ofNat 8 (1 + 2 * 3))) = [1, -1, 0, 0, 0] := by decide


/-! ### States that meet the hypotheses of the statements -/

/-- FalseGuardHasNoEffect: a NOP's guard on p1, which reads 0. -/
theorem wit_false_guard : (Instr.add ⟨1, false⟩ 5 6 7).isSyllable = true ∧ (∀ l, Instr.add ⟨1, false⟩ 5 6 7 ≠ .limm l) ∧
    base.cur.guardTrue ⟨1, false⟩ = false := ⟨rfl, by simp, by decide +kernel⟩

/-- The scalar, control and vector statements: a guard that is true, in task mode and in supervisor mode, with room in the counts. -/
theorem wit_true_guard : base.cur.guardTrue .always = true ∧ base.cur.priv = false ∧ base.cur.counts = Counts.zero ∧
    (sup base).cur.guardTrue .always = true ∧ (sup base).cur.priv = true ∧ base.arrayMine = true := by decide +kernel

/-- DecodeInvertsEncode: syllables with and without a LIMM, and operands at both ends of their fields. -/
theorem wit_encode : ∀ i ∈ [Instr.add .always 0 31 0, .addi ⟨7, true⟩ 31 0 0x3FF (some 0xFFFFF), .bra .always 0xFFFFF, .limm 0],
    i.isSyllable = true ∧ wellFormed i = true := by decide

/-- BundlesDecode: a syllable that may stand alone, and a bundle that the decoder accepts. -/
theorem wit_bundles : (Instr.add .always 5 6 7).payload = none ∧ (Instr.add .always 5 6 7).dests.Nodup ∧
    (∀ l, Instr.add .always 5 6 7 ≠ .limm l) ∧ (∀ gd a b c x h, Instr.add .always 5 6 7 ≠ .cpyx gd a b c x h) ∧
    decodeBundle [0x800298E0] = .ok [⟨0, 0x800298E0, none, .add .always 5 6 7⟩] := ⟨rfl, by decide, by simp, by simp, rfl⟩

/-- The NOP of the placed code. -/
def nopSlot : Slot := ⟨0, 0x82600000, none, .nop .always⟩

/-- The state from which a step runs the NOP of the placed code: its first move is a cycle of core 0. -/
def atNop : State := { State.reset.placeCode [0x82600000] with agenda := [.cycle 0] }

/-- The state in which the step finds the NOP: its agenda without the first move, and the record opened for the bundle. -/
def nopTried : State := ({ atNop with agenda := [] } : State).retry me
def nopOpen : State := nopTried.openIssue me [nopSlot]
def nopIssue : State := ({ nopOpen with issue := { nopOpen.issue with overlay := nopOpen.transomRow me [nopSlot] } }).atSlot nopSlot

/-- StepRunsTheDecodedInstruction: a NOP in the cache at the pc of a ready context. -/
theorem wit_step :
    let s1 : State := { atNop with agenda := [] }
    let w := s1.served 0
    let c := s1.ctx w
    atNop.power = .d0 ∧ (s1.core 0).switching = none ∧ c.bubbles = 0 ∧ s1.ready w = true ∧ c.block = none ∧ c.startFault = none ∧ c.reports = [] ∧
      c.budget ≠ 0 ∧ c.pc.toNat % 4 = 0 ∧ w = me ∧ nopTried.cacheHit w 1 = true ∧ [nopSlot].filter (slotAlone [nopSlot]) = [nopSlot] ∧
      (nopTried.ctx w).nullifies [nopSlot] = false ∧ (nopTried.bundleBanks w [nopSlot]).Nodup ∧
      (nopTried.core 0).limited (bundleWeight [0x82600000] + (nopTried.core 0).engineWeight (some w.ctx)) = false ∧ atNop.coreFrozen 0 = false ∧
      nopTried.bundleHeld w [nopSlot] = false := by
  decide +kernel

theorem wit_step_bundle : nopTried.fetchBundle me = .ok [0x82600000] ∧ decodeBundle [0x82600000] = .ok [nopSlot] :=
  ⟨fetched_ok (by decide +kernel), rfl⟩
theorem wit_step_exec : exec nopSlot.instr nopIssue = .next nopIssue ∧ nopIssue.issue.verdict = .none :=
  ⟨guarded_true (s := nopIssue) (gd := .always) (by decide +kernel) _, by decide +kernel⟩

/-- StepKeepsMemoriesCanonical: memories with bytes, and a step that goes on. -/
theorem wit_memories : base.MemOk ∧ ∃ t, step base = .next t :=
  ⟨⟨by decide +kernel, by decide +kernel, by decide +kernel, by decide +kernel, by decide +kernel, by decide +kernel⟩, _, rfl⟩

/-- ResultsLandAfterTheirLatency: an empty latch file and a latency. -/
theorem wit_latch_file : base.cur.latch = [] ∧ 0 < 20 := by decide +kernel

/-- ControlSyllablesRun: a register that holds a word's address and one that does not, and bundles that close with a target, without one
and with an END. -/
theorem wit_branches : (base.gw 1).toNat % 4 = 0 ∧ (base.gw 31).toNat % 4 = 0 ∧ ((setG base 1 2).gw 1).toNat % 4 ≠ 0 ∧
    ((setG base 31 3).gw 31).toNat % 4 ≠ 0 ∧
    ({ base with issue := { base.issue with target := some 8 } } : State).issue.target = some 8 ∧
    base.issue.target = none ∧ base.issue.ended = false ∧ (base.ctx me).priv = false := by decide +kernel

/-- A context with one load outstanding. -/
def oneLoad : State := base.modCtx me (fun c => { c with counts := { c.counts with gl := 1 } })

/-- ControlSyllablesRun, WAITN: counts at their limits, and one above. -/
theorem wit_waitn : ((1#4 = 15 ∨ oneLoad.cur.counts.gl ≤ (1#4).toNat) ∧ (15#4 = 15 ∨ oneLoad.cur.counts.gs ≤ (15#4).toNat)) ∧
    ¬(0#4 = 15 ∨ oneLoad.cur.counts.gl ≤ (0#4).toNat) := by decide +kernel

/-- TrapEntryAndReturn: supervisor mode with no termination under way, with an empty latch file of the handler and with a result in it. -/
theorem wit_traps : (sup base).cur.terminating = none ∧ (sup base).cur.latch = [] ∧ ((sup base).pushG 3 5 1 .pub).cur.latch ≠ [] ∧
    ((sup base).pushG 3 5 1 .pub).cur.priv = true := by decide +kernel

/-- PrivilegedInTaskMode: a PRV register, at both ends of the latch window too, and room for RSTR. -/
theorem wit_privileged : 0x019#10 ∈ [0x019#10, 0x01A#10, 0x01B#10, 0x01C#10, 0x020#10, 0x022#10] ∧
    (0x040 ≤ (0x04F#10).toNat ∧ (0x04F#10).toNat ≤ 0x04F) ∧ base.cur.counts.cp < 32 := by decide +kernel

/-- ControlRegistersReadAndWrite: a source of each sensitivity, and a tenant slot that is granted and one that is not. -/
theorem wit_control : base.gsens 5 = .pub ∧ (setTen base 5 1).gsens 5 ≠ .pub ∧ (setTen base 5 1).cur.priv = false ∧
    (let s := withKey (sup base) 7 2
     (s.key ((7 : Word).toNat % 8192)).ty = 2 ∧ (s.key ((7 : Word).toNat % 8192)).part.toNat = s.cur.part ∧
       ¬((s.key ((8 : Word).toNat % 8192)).ty = 2 ∧ (s.key ((8 : Word).toNat % 8192)).part.toNat = s.cur.part) ∧
       (setG s 5 7).gw 5 = 7 ∧ (setG s 5 7).cur.priv = true) := by decide +kernel

/-- A held result for a register of each file. -/
def heldOf (d : Reg) : LatchEntry := ⟨d, 1, 0, .pub, 0, 3, true, 0, 0⟩

/-- A supervisor whose handler sees one held result. -/
def holding (d : Reg) : State := (sup base).modCtx me (fun c => { c with held := some [heldOf d] })

/-- LatchWindow: one held result for each file, an entry selected and one beyond the last. -/
theorem wit_latch_window : (∀ d ∈ [Reg.g 5, .v 5, .p 2, .m 3, .q 1], (holding d).cur.held = some [heldOf d] ∧
    [heldOf d][(holding d).cur.latchSelE.toNat]? = some (heldOf d) ∧ (heldOf d).rem < 32 ∧ (holding d).cur.priv = true) := by
  intro d _
  exact ⟨rfl, rfl, show 3 < 32 by decide, rfl⟩
theorem wit_latch_window_end :
    ((holding (.g 5)).modCur (fun c => { c with latchSelE := 1 })).cur.latchSelE = 1 ∧ [heldOf (.g 5)].length ≤ (1#6).toNat ∧
    ((holding (.g 5)).modCur (fun c => { c with latchSelE := 1 })).cur.held = some [heldOf (.g 5)] ∧
    ((0 : Word).extractLsb' 18 2 = 0 ∧ (0x40000 : Word).extractLsb' 18 2 = 1 ∧ (0x80000 : Word).extractLsb' 18 2 = 2 ∧
      (0xC0000 : Word).extractLsb' 18 2 = 3) := by
  rw [cur_modCur]
  exact ⟨rfl, by decide, (wit_latch_window (.g 5) (by simp)).1, by decide⟩

/-- LoadsIssue, buffers: the last aligned byte run of X and of Y, and an untagged line. -/
theorem wit_buffer_loads :
    (let s := setG base 2 (0x40000 - 8)
     (s.gw 2 + BitVec.ofNat 64 ((0#5).toNat * 8)).toNat + 8 ≤ 262144 ∧ (s.gw 2).toNat % 8 = 0 ∧
       (s.core 0).bufOk false (s.gw 2).toNat 8 = true) ∧
    (let s := setG base 2 (0x20000 - 256)
     (s.gw 2).toNat + 256 ≤ 131072 ∧ (s.gw 2).toNat % 256 = 0 ∧ (s.core 0).bufOk true (s.gw 2).toNat 256 = true ∧
       s.v31Busy 31 = false ∧ ((s.core 0).bufTags true).get LineTag.reset 511 = ⟨0, .pub, 0⟩) := by decide +kernel

/-- LoadsIssue, S space: the last aligned run of the window. -/
theorem wit_s_loads :
    let s := setG rich 2 (0x80000 - 256)
    s.cur.counts.gl < 48 ∧ (s.gw 2).toNat + 256 ≤ (s.window s.issue.core s.cur.part).2 ∧ (s.gw 2).toNat % 256 = 0 ∧
      s.rangeOk (.s s.myCluster) (s.phys (s.gw 2).toNat) 256 = true := by decide +kernel

/-- LoadsIssue and StoresRun, global memory: a word at the end of the page, and a vector of four lines. -/
theorem wit_global :
    let s := setG rich 2 0x1FFF8
    (s.gw 2).toNat < 2 ^ 56 ∧
    s.reachAll .load .pub (linePieces 0x1FFF8 8) = .inl (.ok [⟨.hbm, 0x1FFF8, 0x1FFF8, ⟨0, 0x1F, false⟩, 0, 8⟩]) ∧
    s.reachAll .store .pub (linePieces 0x1FFF8 8) = .inl (.ok [⟨.hbm, 0x1FFF8, 0x1FFF8, ⟨0, 0x1F, true⟩, 0, 8⟩]) ∧
    (∃ ps, s.reachAll .load .pub (linePieces 0x1FF00 256) = .inl (.ok ps)) ∧
    (∃ ps, s.reachAll .store .pub (linePieces 0x1FF00 256) = .inl (.ok ps) ∧
      s.linesFit (ps.map (fun p => (p.place, p.addr, p.len))) = true) ∧
    (∃ ps, s.reachAll .store .pub (linePieces 0x1FFE0 32) = .inl (.ok ps) ∧
      s.linesFit (ps.map (fun p => (p.place, p.addr, p.len))) = true) :=
  ⟨by decide +kernel, rfl, rfl, ⟨_, rfl⟩, ⟨_, rfl, by decide +kernel⟩, ⟨_, rfl, by decide +kernel⟩⟩

/-- StoresRun: a readable vector, room in GS and in the lines, and a store that touches its lines. -/
theorem wit_stores : (∃ x, rich.readV 5 = some x ∧ x.fmt = 0) ∧ rich.cur.counts.gs < 48 ∧
    rich.linesFit [(.s rich.myCluster, rich.phys 0x7FF00, 256)] = true ∧ (rich.cur.readQ 3).fmt = 0 ∧
    (let x : BufStore := ⟨false, true, 250, [1, 2, 3, 4, 5, 6, 7], 0, .ten⟩
     x.bytes ≠ [] ∧ x.addr < 0 * 256 + 256 ∧ 1 * 256 < x.addr + x.bytes.length ∧ ¬(2 * 256 < x.addr + x.bytes.length)) :=
  ⟨⟨_, rfl, rfl⟩, by decide +kernel⟩

/-- AccessChecksTrap: past the end of X, of Y and of the window, no space, high bits, and a misaligned address. -/
theorem wit_access_checks : 262144 < ((setG rich 2 0x3FFFF).gw 2).toNat + 2 ∧ 131072 < ((setG rich 2 0x1FFFF).gw 2).toNat + 2 ∧
    (rich.window rich.issue.core rich.cur.part).2 < ((setG rich 2 0x7FFFF).gw 2).toNat + 2 ∧
    2 ^ 56 ≤ ((setG rich 2 (2 ^ 56)).gw 2).toNat ∧ (3#3).toNat ≤ 5 ∧ ((setG rich 2 0x7FFF5).gw 2).toNat % 4 ≠ 0 ∧
    ¬((rich.window rich.issue.core rich.cur.part).2 < ((setG rich 2 0x7FFF5).gw 2).toNat + 4) ∧
    rich.cur.counts.gl < 48 ∧ rich.cur.counts.gs < 48 := by decide +kernel

/-- Every bit of m0 set. -/
def setM0 (s : State) : State := s.modCtx me (fun c => c.writeReg (.m 0) (BitVec.allOnes 2048) 0 .pub)

/-- A base and a stride for VLDS, and indices for VGTH and VSCT in v7, with every element active. -/
def striding : State := setM0 (setV (setG (setG rich 2 0x10000) 3 4) 7 0 6)

/-- ElementAccessesIssue: eight-byte apart s32 elements in X, in S and in global memory. -/
theorem wit_elements :
    typeIn 1 12 (5#4) = true ∧ striding.v31Busy 6 = false ∧
    (let es := striding.elements 5 64 (fun i => striding.gw 2 + BitVec.ofNat 64 i * striding.gw 3)
     striding.checkElements 0 4 es = none ∧ striding.checkElements 3 4 es = none ∧ striding.checkElements 4 4 es = none ∧
     (∀ e ∈ es, (striding.core 0).bufOk false e.2.toNat 4 = true) ∧
     (∀ e ∈ es, striding.rangeOk (.s striding.myCluster) (striding.phys e.2.toNat) 4 = true)) ∧
    striding.accepts [7] [6] [striding.vcheck 7 6 false] = true ∧
    striding.accepts [6, 7] [] [striding.vcheck 7 6 false, (decide ((striding.vreg 6).fmt = 5 ∨ (striding.vreg 6).fmt = 0), 0)] = true ∧
    (let es := striding.elements 5 64 (fun i => striding.gw 2 + BitVec.ofNat 64 ((striding.vreg 7).lane 32 i * 4))
     striding.checkElements 0 4 es = none ∧ striding.checkElements 3 4 es = none ∧ striding.checkElements 4 4 es = none ∧
     striding.linesFit (es.map (fun e => (.s striding.myCluster, striding.phys e.2.toNat, 4))) = true) := by decide +kernel

/-- ElementAccessesIssue, global memory: every element is reached. -/
theorem wit_elements_reached :
    let es := striding.elements 5 64 (fun i => striding.gw 2 + BitVec.ofNat 64 ((striding.vreg 7).lane 32 i * 4))
    (∃ ps, striding.reachElements .load .pub 4 es = .inl (.ok ps) ∧ decide (ps.length = 64) = true) ∧
    (∃ ps, striding.reachElements .store .pub 4 es = .inl (.ok ps) ∧ striding.linesFit (ps.map (fun p => (p.place, p.addr, 4))) = true) :=
  ⟨reached_of (P := fun ps => decide (ps.length = 64)) (by decide +kernel),
    reached_of (P := fun ps => striding.linesFit (ps.map (fun p => (p.place, p.addr, 4)))) (by decide +kernel)⟩

/-- Atomic addresses: a word of S space at 0 and a word of global memory. -/
def atomics : State := setG (setG rich 2 0x6000000000000000) 3 (0x8000000000000000 + 0x10008)

/-- AtomicsIssue: an S word, a global word, a legal continuation handle. -/
theorem wit_atomics : atomics.cur.counts.gl < 48 ∧ atomics.cur.counts.gs < 48 ∧
    atomics.rangeOk (.s atomics.myCluster) (atomics.phys 0) 8 = true ∧ bitsOf (atomics.gw 6).toNat 21 11 = 0 ∧
    atomics.gsens 6 = .pub ∧ atomics.gsens 7 ≠ .seal := by decide +kernel
theorem wit_atomic_places : atomics.atomAt (atomics.gw 2) 8 true = .ok (.sp 0) ∧
    atomics.atomAt (atomics.gw 3) 8 true = .ok (.glob 0x10008) ∧ atomics.atomAt (atomics.gw 3) 8 false = .ok (.glob 0x10008) ∧
    (∀ k ∈ [Access.atomic, .casl, .red], atomics.reach me 0 k .pub 0x10008 = .ok .hbm 0x10008 ⟨0, 0x10, true⟩) :=
  ⟨rfl, rfl, rfl, by decide +kernel⟩

/-- CountersRun: a handle of the quota, a target that is reached and one that is not, an amount above PUB, and bad handles. -/
theorem wit_counters : rich.checkHandle me rich.cur.part rich.cur.hashKey true (rich.gw 1) = .ok (.cistern 0 0) ∧
    rich.checkHandle me rich.cur.part rich.cur.hashKey false (rich.gw 1) = .ok (.cistern 0 0) :=
  ⟨rfl, rfl⟩
theorem wit_counter_targets : rich.gsens 2 = .pub ∧ (rich.gw 2).toNat ≤ rich.ctrValue (.cistern 0 0) ∧
    (setTen rich 2 1).gsens 2 ≠ .pub ∧ rich.ctrValue (.cistern 0 0) < ((setG rich 2 1).gw 2).toNat ∧
    (setG rich 2 1).cur.woken = none ∧
    (let bad (h : Word) : Nat := ((setG rich 1 h).gw 1).toNat
     bitsOf (bad 0xC000000000000000) 62 2 = 3 ∧
     (bitsOf (bad 0x100000000) 62 2 = 0 ∧ bitsOf (bad 0x100000000) 32 30 ≠ 0) ∧
     (bitsOf (bad 0x10000) 62 2 = 0 ∧ bitsOf (bad 0x10000) 16 14 ≠ 0) ∧
     (bitsOf (bad 16) 32 30 = 0 ∧ bitsOf (bad 16) 16 14 = 0 ∧ rich.diePresent (bitsOf (bad 16) 30 2) = true ∧
       rich.inQuota rich.cur.part (bitsOf (bad 16) 30 2) (bitsOf (bad 16) 0 16) = false) ∧
     (bitsOf (bad 0x4000000000000004) 62 2 = 1 ∧ bad 0x4000000000000004 % 8 ≠ 0) ∧
     (bitsOf (bad 0x4000000000080000) 62 2 = 1 ∧ bad 0x4000000000080000 % 8 = 0 ∧ bitsOf (bad 0x4000000000080000) 22 40 = 0 ∧
       (rich.window 0 rich.cur.part).2 < bitsOf (bad 0x4000000000080000) 0 22 + 8) ∧
     (bitsOf (bad 0x8000000000000004) 62 2 = 2 ∧ bad 0x8000000000000004 % 8 ≠ 0)) := by decide +kernel

/-- FenceRuns: each order, with nothing held and with a store held. -/
theorem wit_fence : (1#2 ≠ 0 ∧ 2#2 ≠ 0 ∧ 3#2 ≠ 0) ∧ (2#2).getLsbD 1 = true ∧ (1#2).getLsbD 1 = false ∧ rich.cur.counts.gs < 48 ∧
    (rich.cur.stores.isEmpty && !rich.pubs.any (fun p => p.who = rich.who)) = true := by decide +kernel

/-- A table at S 0, a data area at S 0x40000, and the block at the placed code. -/
def probing : State := setG (setG rich 6 0x10000) 7 0x0004000000000000

/-- The table with an entry at a slot of the block's hash. -/
def probeEntry (e : Nat) : State :=
  probing.modCluster 0 (fun k => { k with s := k.s.putBytes (probing.phys (8 * 0x100)) (leBytes 8 e) })

/-- ProbeRuns: the fields of the descriptor, and a block that is reached. -/
theorem wit_probe : probing.cur.counts.gl < 47 ∧
    (let dsc := (probing.gw 7).toNat
     bitsOf (bitsOf dsc 0 22) 0 13 = 0 ∧ bitsOf dsc 22 10 = 0 ∧ bitsOf (bitsOf dsc 32 22) 0 8 = 0 ∧ bitsOf dsc 54 10 = 0 ∧
     bitsOf dsc 0 22 + 8192 ≤ (probing.window 0 probing.cur.part).2 ∧
     bitsOf dsc 32 22 + 262144 ≤ (probing.window 0 probing.cur.part).2) := by decide +kernel
theorem wit_probe_block : ∃ p, probing.reachAll .load .pub [(0x10000 / 256 * 256, 0, 256)] = .inl (.ok [p]) := ⟨_, rfl⟩

/-- ProbeRuns, and every statement about a memory in its canonical form: the memories of the states of these tests, and the tag lines of
the eight entries. -/
theorem wit_probe_memories : probing.MemOk ∧ probing.cur.counts.gl < 48 ∧ rich.wordOk (.cistern 0 0) = true ∧
    (∀ e ∈ probing.probeEntries 0 0x100, probing.rangeOk (.s probing.myCluster) (probing.phys (0 + 8 * e.1)) 8 = true) :=
  ⟨⟨by decide +kernel, by decide +kernel, by decide +kernel, by decide +kernel, by decide +kernel, by decide +kernel⟩, by decide +kernel⟩

/-- ProbeRuns: a descriptor that is not well-formed, one that is and leaves the window, a high address, and no room for two. -/
theorem wit_probe_refusals :
    ¬(bitsOf (bitsOf (8 : Nat) 0 22) 0 13 = 0) ∧
    (let s := setG probing 7 0x0008000000000000
     let dsc := (s.gw 7).toNat
     bitsOf (bitsOf dsc 0 22) 0 13 = 0 ∧ bitsOf dsc 22 10 = 0 ∧ bitsOf (bitsOf dsc 32 22) 0 8 = 0 ∧ bitsOf dsc 54 10 = 0 ∧
       ¬(bitsOf dsc 32 22 + 262144 ≤ (s.window 0 s.cur.part).2)) ∧
    2 ^ 56 ≤ ((setG probing 6 (2 ^ 56)).gw 6).toNat ∧
    (let s := probing.modCtx me (fun c => { c with counts := { c.counts with gl := 47 } })
     s.cur.counts.gl < 48 ∧ ¬(s.cur.counts.gl < 47)) := by decide +kernel

/-- ProbeRuns: a table with no match and a free entry, one with a filled match, one with a pending match, and a full run of eight. -/
theorem wit_probe_tables :
    let found (e : Nat × Nat) : Bool := bitsOf e.2 63 1 = 1 && bitsOf e.2 0 48 = 0x100 && bitsOf e.2 48 14 = 0
    let free (e : Nat × Nat) : Bool := bitsOf e.2 63 1 = 0
    (probing.probeEntries 0 0x100).find? found = none ∧ ((probing.probeEntries 0 0x100).find? free).isSome = true ∧
    ((probeEntry (2 ^ 63 + 0x100)).probeEntries 0 0x100).find? found = some (0x100, 2 ^ 63 + 0x100) ∧
    ((probeEntry (3 * 2 ^ 62 + 0x100)).probeEntries 0 0x100).find? found = some (0x100, 3 * 2 ^ 62 + 0x100) ∧
    (let full := (List.range 8).foldl (fun (s : State) i => s.modCluster 0 (fun k => { k with
        s := k.s.putBytes (probing.phys (8 * (0x100 + i))) (leBytes 8 (2 ^ 63 + i)) })) probing
     (full.probeEntries 0 0x100).find? found = none ∧ (full.probeEntries 0 0x100).find? free = none) := by decide +kernel


/-! ### Vector statements -/

/-- VectorResultsMerge: results of the element count, at their largest, in a type of words and in one narrower than a byte. -/
theorem wit_merge : (List.replicate 64 ((2 ^ 32 - 1, 0) : Nat × BitVec 7)).length = 2048 / opBits 5 ∧
    (∀ x ∈ List.replicate 64 ((2 ^ 32 - 1, 0) : Nat × BitVec 7), x.1 < 2 ^ opBits 5) ∧
    (List.replicate 512 ((15, 0) : Nat × BitVec 7)).length = 2048 / opBits 13 := by
  refine ⟨by decide, fun x hx => ?_, by rw [List.length_replicate]; decide⟩
  rw [(List.mem_replicate.1 hx).2]
  decide

/-- Registers with bf16, f32, cb4 and t5 data. -/
def floats : State := setV (setV (setV base 6 0x3F803F80 8) 7 0x40004000 8) 5 0 8
def dots : State := setV (setV (setV base 6 0x3F803F80 8) 7 0x40004000 8) 5 0 10

/-- VectorIntegerOperations: raw sources are accepted for the narrowest and the widest integer type, with and without merging, and for
the logical syllables of any type. -/
theorem wit_integer : (∀ z ∈ [false, true], base.lanesOk 1 [6, 7] 5 z false = true ∧ base.lanesOk 7 [6, 7] 5 z false = true ∧
    base.lanesOk 5 [6, 7, 5] 5 z false = true ∧ base.lanesOk 3 [6] 5 z false = true ∧ base.lanesOk 8 [6, 7] 5 z true = true) ∧
    typeIn 1 7 (1#4) = true ∧ typeIn 1 7 (7#4) = true := by decide +kernel

/-- VectorFloatOperations: bf16 sources, and the two dot products. -/
theorem wit_float : ffmt 8 = some bf16Fmt ∧ typeIn 8 10 (8#4) = true ∧ floats.lanesOk 8 [6, 7] 5 true false = true ∧
    floats.lanesOk 8 [6, 7, 5] 5 false false = true ∧ base.lanesOk 1 [6, 8, 9] 5 true false = true ∧ typeIn 1 10 (1#4) = true ∧
    base.accepts [6, 7, 5] [5] [base.vcheck 6 1 false, base.vcheck 7 1 false, base.vcheck 5 5 false] = true ∧
    dots.accepts [6, 7, 5] [5] [dots.vcheck 6 8 false, dots.vcheck 7 8 false, dots.vcheck 5 10 false] = true := by
  refine ⟨rfl, ?_⟩
  decide +kernel

/-- VectorMovesAndComparisons: accepted registers for each syllable, trits in every lane, trit codes in every byte, and sources to
compare. -/
theorem wit_moves : (typeIn 1 14 (14#4) = true ∧ base.accepts [5] [5] [base.vcheck 5 14 false] = true) ∧
    base.accepts [6] [] [base.vcheck 6 1 false] = true ∧ (typeIn 1 12 (12#4) = true ∧ typeIn 1 12 (1#4) = true) ∧
    base.accepts [5] [5] [base.vcheck 5 1 true] = true ∧ base.accepts [6, 5] [5] [base.vcheck 6 1 false, base.vcheck 5 5 false] = true ∧
    base.accepts [6] [5] [] = true ∧
    (let s := (setV base 6 0 14).modCtx me (fun c => c.writeReg (.q 1) 0x3F80 8 .pub)
     s.accepts [6] [5] [s.vcheck 6 14 false, (decide ((s.cur.readQ 1).fmt = 8), 0)] = true) ∧
    ((4#3).toNat < 5 ∧ base.accepts [6, 5] [5] [base.vcheck 6 1 false, base.vcheck 5 15 false] = true) ∧
    (let s := setV base 6 (0xFF * 256 + 1) 1
     (∀ i, i < 240 → (s.vreg 6).lane 8 i ∈ [0, 1, 255]) ∧ (s.vreg 6).lane 8 1 = 255) ∧
    (let s := setV base 6 (242 * 2 ^ 8) 15
     s.accepts [6] [5] [s.vcheck 6 15 false] = true ∧ (∀ i, i < 48 → (s.vreg 6).lane 8 (48 * 0 + i) < 243)) ∧
    ((5#5).toNat < 6 ∧ base.accepts [6, 7] [] [base.vcheck 6 1 false, base.vcheck 7 1 false] = true ∧
      floats.accepts [6, 7] [] [floats.vcheck 6 8 false, floats.vcheck 7 8 false] = true) := by decide +kernel

/-- VectorRearrangements: raw data and indices, a raw slide, a select, a reduction and a scan. -/
theorem wit_rearrange : base.accepts [6, 7, 5] [5] [base.vcheck 6 12 true, (decide ((base.vreg 7).fmt = 0), 0), base.vcheck 5 1 false] = true ∧
    base.accepts [6, 7] [5] [] = true ∧ (base.vreg 6).fmt = (base.vreg 7).fmt ∧ (2#5).toNat < 3 ∧
    base.lanesOk 1 [6] 5 true false = true ∧ floats.lanesOk 8 [6] 5 false false = true := by decide +kernel

/-- A lock-step pass with a forwarding window, in its first cycle. -/
def aPass : Pass := ⟨0, false, ⟨0, 0, 1, 0, 1, false, false, false⟩, true, 0, []⟩

/-- VectorTagMismatchTraps: a window that is open on v31, a first source of another type, and a second one. -/
theorem wit_mismatch :
    (let s := base.modCore 0 (fun k => { k with passes := [aPass] })
     ((s.readV 6).isNone || (s.readV 7).isNone || s.v31Busy 31) = true) ∧
    ((floats.readV 6).isNone || (floats.readV 8).isNone || floats.v31Busy 5) = false ∧
    ¬((floats.vreg 6).fmt = 1 ∨ ((floats.vreg 6).fmt = 0 ∧ (1#4).toNat ≤ 7)) ∧
    ((floats.vreg 8).fmt = 1 ∨ ((floats.vreg 8).fmt = 0 ∧ (1#4).toNat ≤ 7)) := by decide +kernel

/-- SpaceHash: the last address of S space. -/
theorem wit_hash : 2 ^ 22 - 1 < 2 ^ 22 ∧ (0x605 : Word).toNat % 2 ^ 21 = (0xFFFFFFFFFFE00605 : Word).toNat % 2 ^ 21 := by decide

/-! ### Array and engines -/

/-- Operands of the array: g6 is 0, g7 the legal configuration, g8 one row, g9 one row to drain. -/
def arrayed : State := setG (setG base 7 0x181) 8 1

/-- ArraySyllablesRun: an idle array, room in the counts, legal operands of each syllable. -/
theorem wit_array : arrayed.arrayMine = true ∧ (arrayed.core 0).shutterBusy = false ∧ arrayed.cur.counts.mt < 16 ∧
    (arrayed.gw 6).toNat < 64 ∧ (2#5).getLsbD 1 = true ∧ (2#5).getLsbD 2 = false ∧ (4#5).getLsbD 2 = true ∧
    (arrayed.core 0).asyncPass = false ∧ (arrayed.core 0).passOverlaps 0 = false ∧ (arrayed.core 0).queue.length < 8 ∧
    (let x := (arrayed.gw 7).toNat
     x < 2 ^ 10 ∧ x % 2 ^ 4 ∈ [1, 11, 13] ∧ x / 2 ^ 4 % 2 ^ 4 ∈ [1, 5, 8, 9, 10, 11] ∧ x / 2 ^ 8 ∈ [1, 2]) ∧
    (let x := (arrayed.gw 6).toNat
     x + 256 ≤ 262144 ∧ x % 256 = 0 ∧ (arrayed.core 0).bufOk false x 256 = true ∧
       (∀ i, i < 128 → (arrayed.core 0).x.num (x + 2 * i) 2 / 128 % 256 ≠ 255) ∧ x / 2 % 2 ^ 15 = 0 ∧ x / 2 ^ 32 = 0 ∧
       arrayed.gsens 6 = .pub ∧ x / 2 ^ 23 % 2 ^ 8 ≠ 255) := by decide +kernel
theorem wit_array_captures : (∃ args, captureMms arrayed.cur.cfg 2 (arrayed.gw 6) (arrayed.gw 6) (arrayed.gw 8) = .ok args) ∧
    (∃ args, captureMdrn arrayed.cur.cfg arrayed.cur.frm (arrayed.gw 6) (arrayed.gw 6) (arrayed.gw 8) = .ok args) :=
  ⟨ok_of (by decide +kernel), ok_of (by decide +kernel)⟩

/-- MatrixPass: a plane of 3,072 bytes, 240 activations, 64 sums and a Y row that has not failed. -/
theorem wit_pass : (List.replicate 240 (1 : Int)).length = 240 ∧ (List.replicate 3072 (0 : Byte)).length = 3072 ∧
    (⟨511, List.replicate 64 7, .pub⟩ : RowSums).sums.length = 64 ∧ (base.core 0).bufOk true (256 * (0 + 511)) 256 = true ∧
    (base.core 0).y.wf = true :=
  ⟨List.length_replicate, List.length_replicate, List.length_replicate, by decide +kernel, by decide +kernel⟩

/-- A WLD in its last cycle, a pass whose task ends, and a skipped pass and a drain at the head of the queue. -/
def lastWld : State := base.modCore 0 (fun k => { k with shutter := some ⟨0, 63, 1, 13, [], false, false, 0⟩ })
def spentPass : State := (base.modCtx me (fun c => { c with ending := some 1 })).modCore 0 (fun k => { k with passes := [aPass] })
def skipArgs : PassArgs := ⟨0, 8, 512, 0, 1, false, false, true⟩
def drainArgs : DrainArgs := ⟨0, 0, 1, 511, 0, ArrayCfg.start, 0⟩

/-- ArrayEvents: a hypothesis for each event, with the failed check of a WLD. -/
theorem wit_array_events : (lastWld.core 0).shutter = some ⟨0, 63, 1, 13, [], false, false, 0⟩ ∧ 13 ≤ 13 ∧
    (spentPass.core 0).passes = [aPass] ∧ ((spentPass.core 0).ctx aPass.ctx).spent = true ∧
    (let s := base.modCore 0 (fun k => { k with queue := [⟨0, false, [], 4, 0, .pass skipArgs 0 0⟩] })
     (s.core 0).queue = [⟨0, false, [], 4, 0, .pass skipArgs 0 0⟩] ∧ (s.core 0).passes = [] ∧ 0 ≤ skipArgs.rows ∧ skipArgs.rows ≤ 512 ∧
       (s.core 0).shutter = none) ∧
    (let s := base.modCore 0 (fun k => { k with queue := [⟨0, false, [], 0, 0, .drain drainArgs 0 0⟩] })
     (s.core 0).queue = [⟨0, false, [], 0, 0, .drain drainArgs 0 0⟩] ∧ (s.core 0).bufOk true (256 * (511 + 0)) 256 = true ∧
       0 + 1 ≥ drainArgs.rows) := by decide +kernel
theorem wit_array_memories : lastWld.MemOk ∧ lastWld.coreFrozen 0 = false :=
  ⟨⟨by decide +kernel, by decide +kernel, by decide +kernel, by decide +kernel, by decide +kernel, by decide +kernel⟩, by decide +kernel⟩
theorem wit_shutter_check : shutterCheck false false 1 [] = .error (0x0E, 0) := rfl

/-- A copy of one row of 64 bytes from X to Y: g4 the source, g5 the destination, g6 the length, g7 the handle. -/
def copying : State := setG (setG (setG rich 5 0x2000000000000000) 6 64) 3 1

/-- A gather: the index list is in X at 0. -/
def gathering : State := setG (setG (setG copying 8 0x100) 9 0) 10 0

/-- CopySyllablesRun: each command's operands. -/
theorem wit_copies : ((copying.core 0).chan 3).length < 8 ∧ copying.cur.counts.cp < 32 ∧ copying.cur.counts.mt < 16 ∧
    copying.gsens 3 = .pub ∧
    (let s := copying.modCtx me (fun c => { c with sealState := 1 })
     s.sealPresent = true ∧ s.cur.sealState = 1 ∧
       s.cur.sealBytes.toNat + (((s.core 0).absorbs 0).foldl (fun m e => m + e.2.shape.total) 0) + 64 < 2 ^ 40) ∧
    (let src := (copying.gw 4).toNat
     let dst := (copying.gw 5).toNat
     let w := (copying.gw 6).toNat
     bitsOf src 56 5 = 0 ∧ bitsOf dst 56 5 = 0 ∧ bitsOf w 52 4 = 0 ∧ bitsOf w 62 2 = 0 ∧ bitsOf w 60 2 ≠ 3 ∧
       bitsOf w 0 20 ≠ 0 ∧ bitsOf w 0 20 * (bitsOf w 20 16 + 1) * (bitsOf w 36 16 + 1) ≤ 2 ^ 32 ∧ bitsOf src 61 3 ∈ [0, 1, 3, 4] ∧
       bitsOf dst 61 3 ∈ [0, 1, 2, 3, 4] ∧ bitsOf src 0 56 + bitsOf w 0 20 ≤ copying.extent 0 copying.cur.part 0 ∧
       bitsOf dst 0 56 + bitsOf w 0 20 ≤ copying.extent 0 copying.cur.part 1) := by decide +kernel
theorem wit_copy_shapes : (∃ sh, copying.copyShape 4 0 = .ok sh) ∧ (∃ sh, gathering.gatherShape 4 8 = .ok sh) ∧
    copying.checkHandle me copying.cur.part copying.cur.hashKey true (copying.gw 7) = .ok (.cistern 0 0) ∧
    (∃ r, captureChained copying.cur (.wld .always 0) 0 = .ok r) ∧
    ({ copying with issue := { copying.issue with chain := some (.wld .always 0) } } : State).issue.chain = some (.wld .always 0) :=
  ⟨ok_of (by decide +kernel), ok_of (by decide +kernel), rfl, ok_of (by decide +kernel), rfl⟩

/-- A row of a copy of one row. -/
theorem wit_copy_row : let sh : CopyShape := ⟨0, 0, 1, 0, 64, 1, 1, 0, 0, 0, 0, 0, 0, none⟩
    63 < sh.len ∧ 0 < sh.n1 ∧ sh.gather = none := by decide

/-- A sweep of 16,384 bf16 elements of X in place: g6 both addresses, g7 the shape. -/
def sweeping : State := setG rich 7 (8 * 2 ^ 56 + 2 ^ 16 + 16384)

/-- A SPAWN and a COLL of the one rank of group 0: g4 and g5 the buffers, g6 the element count and the ring. -/
def collecting : State := setG rich 6 (2 ^ 48 + 2 ^ 28)

/-- OtherEngineSyllablesRun: SFX, SPAWN and COLL. -/
theorem wit_engines : (sweeping.core 0).sweeps.length < 16 ∧ sweeping.cur.counts.sf < 16 ∧
    (let ga := (sweeping.gw 6).toNat
     let gb := (sweeping.gw 7).toNat
     bitsOf ga 22 1 = 0 ∧ bitsOf ga 24 8 = 0 ∧ bitsOf ga 54 1 = 0 ∧ bitsOf ga 56 8 = 0 ∧ bitsOf gb 50 6 = 0 ∧ bitsOf gb 60 4 = 0 ∧
       (1 ≤ bitsOf gb 0 16 ∧ bitsOf gb 0 16 ≤ 16384) ∧ (1 ≤ bitsOf gb 16 16 ∧ bitsOf gb 16 16 ≤ 4096) ∧ bitsOf gb 56 4 = 8 ∧
       bitsOf gb 32 18 % 2 = 0 ∧ bitsOf ga 0 22 + (bitsOf gb 16 16 - 1) * bitsOf gb 32 18 + bitsOf gb 0 16 * 2 ≤
         sweeping.extent 0 sweeping.cur.part 0) ∧
    rich.cur.counts.cp < 32 ∧ bitsOf (rich.gw 4).toNat 21 11 = 0 ∧ rich.gsens 4 = .pub ∧ rich.gsens 6 ≠ .seal ∧ rich.gsens 7 ≠ .seal ∧
    (let w := (collecting.gw 6).toNat
     collSize 2 ∣ (collecting.gw 4).toNat ∧ 1 ≤ bitsOf w 0 32 ∧ bitsOf w 0 32 ≤ 2 ^ 28 ∧ bitsOf w 32 16 = 0 ∧ bitsOf w 48 16 = 1 ∧
       (collecting.part collecting.cur.part).collGroups.length = 1) := by decide +kernel
theorem wit_coll_rank : ((collecting.part 0).collGroups.getD 0 (0, [])).2[0]? = some (Config.packageNumber ++ BitVec.ofNat 16 collecting.issue.core) ∧
    collecting.cur.part = 0 := ⟨rfl, rfl⟩

/-- Seal operands in supervisor mode: slot 9 a sealing key, metadata in X at 0, the record at 0x20000, KSLOT granted slot 0. -/
def sealing : State :=
  (setG (setG (sup rich) 4 9) 6 0x20000).modKey 9 (fun q => { q with ty := 6 }) |>.modKey 0 (fun q => { q with ty := 3, grants := [0] })

/-- SealSyllablesRun: SEAL OPEN, SEAL CLOSE and KROT. -/
theorem wit_seal : sealing.cur.counts.cp < 32 ∧ (sealing.gw 4).toNat < 8192 ∧ (sealing.gw 5).toNat + 64 ≤ 262144 ∧
    (sealing.gw 5).toNat % 64 = 0 ∧ (sealing.gw 6).toNat < 2 ^ 56 ∧ (sealing.gw 6).toNat % 4096 = 0 ∧ sealing.sealPresent = true ∧
    sealing.cur.sealState = 0 ∧ (sealing.key 9).ty = 6 ∧ (sealing.key 9).part.toNat = sealing.cur.part ∧
    sealing.modelGranted sealing.cur.part 0 sealing.cur.kslot = true ∧ sealing.gsens 3 = .pub ∧
    (sealing.modCtx me (fun c => { c with sealState := 1 })).cur.sealState = 1 ∧
    (let s := withKey sealing 9 1
     s.cur.priv = true ∧ (s.gw 4).toNat < 8192 ∧ (s.key 9).ty ∈ [1#3, 2, 5] ∧ (s.key 9).part.toNat = s.cur.part ∧
       (s.key 9).sweep = false) := by decide +kernel
theorem wit_seal_handle : sealing.checkHandle me sealing.cur.part sealing.cur.hashKey true (sealing.gw 7) = .ok (.cistern 0 0) := rfl
theorem wit_seal_model : leNat ((((sealing.core 0).arrayBytes false 0 64)).take 2) = 0 := by decide +kernel

/-- A SCRUB of every buffer and of the last 64 bytes below 2^56, with a grant to drop. -/
def scrubbing : State := setG (setG (setG (setG (sup rich) 4 31) 5 (2 ^ 56 - 64)) 6 64) 8 32768 |>.modKey 0 (fun q => { q with ty := 3 })

/-- SealSyllablesRun: SCRUB, CKPT and RSTR. -/
theorem wit_scrub : scrubbing.cur.priv = true ∧ (scrubbing.gw 4).toNat < 32 ∧ (scrubbing.core 0).scrubReady 0 = true ∧
    ((scrubbing.gw 5).toNat < 2 ^ 56 ∧ (scrubbing.gw 5).toNat % 64 = 0 ∧ (scrubbing.gw 6).toNat ≠ 0 ∧ (scrubbing.gw 6).toNat % 64 = 0 ∧
      (scrubbing.gw 6).toNat ≤ 2 ^ 40) ∧ (32768 ≤ (scrubbing.gw 8).toNat ∧ (scrubbing.gw 8).toNat < 40960) ∧
    ((scrubbing.key 0).ty = 3 ∧ (scrubbing.key 0).part.toNat = scrubbing.cur.part) ∧
    (let s := withKey (setG (setG rich 4 (64 * 2 ^ 56)) 6 9) 9 5
     let g0 := (s.gw 4).toNat
     1 ≤ g0 / 2 ^ 56 ∧ g0 / 2 ^ 56 ≤ 64 ∧ g0 % 64 = 0 ∧ (s.gw 5).toNat % 4096 = 0 ∧ (s.gw 6).toNat < 2 ^ 32 ∧
       (s.gw 6).toNat / 2 ^ 13 % 8 = 0 ∧ (s.gw 6).toNat / 2 ^ 29 % 4 = 0 ∧ (s.key 9).ty = 5 ∧ (s.key 9).part.toNat = s.cur.part) ∧
    ((sup rich).cur.priv = true ∧ ((sup rich).gw 4).toNat < 2 ^ 56 ∧ ((sup rich).gw 4).toNat % 4096 = 0) := by decide +kernel

/-- DeclLowers: a TEN register of each file, 1,024 lines of X, and a SEAL one. -/
theorem wit_decl :
    (let s := setG (setTen (sup base) 5 1) 6 (0 + 8 * 0 + 32 * 5)
     (s.gw 6).toNat = 0 + 8 * 0 + 32 * 5 ∧ s.cur.gs 5 ≠ .seal ∧ (s.cur.fileV 31).sens ≠ .seal ∧ s.v31Busy 31 = false ∧
       (s.cur.readP 7).sens ≠ .seal ∧ (s.cur.readM 7).sens ≠ .seal ∧ (s.cur.readQ 3).sens ≠ .seal) ∧
    (let s := setG (sup base) 6 (BitVec.ofNat 64 (5 + 8 * 1 + 2 ^ 16 * 1024 + 2 ^ 32 * 0 + 2 ^ 61 * 0))
     (s.gw 6).toNat = 5 + 8 * 1 + 2 ^ 16 * 1024 + 2 ^ 32 * 0 + 2 ^ 61 * 0 ∧ 0 + 256 * 1024 ≤ s.extent 0 s.cur.part 0) ∧
    (let s := (setG (sup base) 6 (32 * 5)).modCtx me (fun c => c.writeReg (.g 5) 1 0 .seal)
     s.cur.declTarget 0 5 = some .seal ∧ (s.gw 6).toNat = 0 + 8 * 0 + 32 * 5) := by decide +kernel


/-! ### Homes, returns and engines -/

/-- An outstanding operation. -/
def opOf (k : OpKind) : VlOp := ⟨0, 0, 1, k, 0x10008, .pub, 0, .core, 0, [], none, none, none, [], 0⟩

/-- A context with one operation. -/
def withOp (s : State) (o : VlOp) : State := s.modCtx me (fun c => { c with ops := [o], counts := { c.counts with gl := 1, gs := 1 } })

/-- The operands of AtomicsAtHomes: an atomic of each kind on a word of HBM. -/
def atomicKinds : List OpKind :=
  [.amo .hbm 0x10008 true 0 1 (.g 5), .cas .hbm 0x10008 true 0 7 6 1, .red .hbm 0x10008 true 0 1]
def aCasl : OpKind := .casl .hbm 0x10008 true 0 7 0 0 false 8 1 0

/-- AtomicsAtHomes: an operation that may be performed, on a line that reads and whose counters can rise, with and without room in the
Wellhead. -/
theorem wit_homes : (∀ k ∈ aCasl :: atomicKinds, ((withOp rich (opOf k)).ctx me).ops[0]? = some (opOf k) ∧
      (withOp rich (opOf k)).homeReady me 0 (opOf k) = true) ∧
    (withOp rich (opOf aCasl)).pubs = [] ∧ ((withOp rich (opOf aCasl)).ctx me).stores = [] ∧
    (withOp rich (opOf aCasl)).rangeOk .hbm 0x10008 8 = true ∧ ((withOp rich (opOf aCasl)).raiseTree 0x10008).isSome = true ∧
    (withOp rich (opOf aCasl)).reserveLaunch 0 ((withOp rich (opOf aCasl)).sliceOf 0x10008) = some true := by decide +kernel

theorem wit_homes_memories : (withOp rich (opOf aCasl)).MemOk :=
  ⟨by decide +kernel, by decide +kernel, by decide +kernel, by decide +kernel, by decide +kernel, by decide +kernel⟩

/-- A launch that a continuation left. -/
def aLaunch : Launch := ⟨0, .continuation 0 0, 0, 0, 0, 0, 0, 0, [], none, none, none, none, 0⟩

/-- A Wellhead whose shares are full. -/
theorem wit_no_room :
    let s := (withOp base (opOf aCasl)).modSlice (base.sliceOf 0x10008) (fun x => { x with well := [⟨aLaunch, false⟩] })
    s.reserveLaunch 0 (s.sliceOf 0x10008) = none ∧ (s.ctx me).ops[0]? = some (opOf aCasl) ∧ s.homeReady me 0 (opOf aCasl) = true := by
  decide +kernel

/-- A publication of one store, and one that has nothing left. -/
def aStore : Store := ⟨5, 0, .hbm, 0x10008, [1, 2], 0, .pub, ⟨0, 0x10, true⟩⟩
def publishing (ts : List Store) : State := { base with pubs := [⟨9, me, .package, ts, [5], true⟩] }

/-- PublicationEvents: a store that may be performed, and a publication that is complete. -/
theorem wit_publications_memories : (publishing [aStore]).MemOk :=
  ⟨by decide +kernel, by decide +kernel, by decide +kernel, by decide +kernel, by decide +kernel, by decide +kernel⟩
theorem wit_publications :
    ((publishing [aStore]).pubs.find? (fun q => q.id = 9)).isSome = true ∧ (publishing [aStore]).storeReady ⟨9, me, .package, [aStore], [5], true⟩ aStore = true ∧
    (publishing [aStore]).lineOk aStore.addr = true ∧ ((publishing [aStore]).raiseTree aStore.addr).isSome = true ∧
    (∀ q ∈ (publishing []).pubs, q.who = me → q.id ≤ 9 → q.stores = []) := by decide +kernel

/-- PublicationEvents: an advance on its way, one that the counter takes and one that it refuses. -/
def advancing (v : Nat) : State :=
  { rich with advances := [⟨.cistern 0 3, 3, 1, 2, none, some me, 2⟩], dies := [(0, { rich.die 0 with cistern := [(3, ⟨v, []⟩)] })] }
theorem wit_advances : (advancing 0).advances[0]? = some ⟨.cistern 0 3, 3, 1, 2, none, some me, 2⟩ ∧ (advancing 0).pubs = [] ∧
    (advancing 0).fencesDone me 2 = true ∧ (advancing 0).ctrValue (.cistern 0 3) + 1 < 2 ^ 64 ∧
    2 ^ 64 ≤ (advancing (2 ^ 64 - 1)).ctrValue (.cistern 0 3) + 1 ∧ ((advancing (2 ^ 64 - 1)).ctx me).terminating = none := by
  decide +kernel

/-- ReturnsAndFills: a return that brings a fault, one with a value, one whose value a later write has dropped, a load and a CREAD. -/
theorem wit_returns :
    let fault : VlOp := { opOf (.cread (.cistern 0 3) (.g 5)) with result := some ⟨[], some ⟨0x0F, 1⟩, [], []⟩ }
    let val : VlOp := { opOf (.amo .hbm 0x10008 true 0 1 (.g 5)) with result := some ⟨[(.g 5, 3, 0)], none, [], []⟩ }
    let late : VlOp := { val with dropped := [.g 5] }
    let load : VlOp := opOf (.load [⟨.hbm, 0x10008, 0x10008, 8, 0, List.replicate 8 none, ⟨0, 0x10, false⟩⟩] (.g 5) 0)
    let cread : VlOp := opOf (.cread (.cistern 0 3) (.g 5))
    (∀ o ∈ [fault, val, late, load, cread], ((withOp rich o).ctx me).ops[0]? = some o ∧ ((withOp rich o).ctx me).opReady 0 = true ∧
      o.wait = 0 ∧ (withOp rich o).storesArrived me o = true ∧ (withOp rich o).flowReady (o.item me) = true ∧ (withOp rich o).linksOpen me o = true) ∧ val.dropped.contains (.g 5) = false ∧ late.dropped.contains (.g 5) = true ∧
    (withOp rich load).rangeOk .hbm 0x10008 8 = true := by
  decide +kernel

/-- ReturnsAndFills: a fill of a block that reads. -/
def filling : State := { rich with fills := [⟨7, me, 0x100, 0, 0x800, 0x100, 0x10000, 0, .hbm, 0x10000, .pub⟩] }
theorem wit_fill : filling.fills[0]? = some ⟨7, me, 0x100, 0, 0x800, 0x100, 0x10000, 0, .hbm, 0x10000, .pub⟩ ∧
    filling.rangeOk .hbm 0x10000 256 = true ∧ (0x800 + 8 ≤ 0x10000) := by decide +kernel
theorem wit_fill_memories : filling.MemOk :=
  ⟨by decide +kernel, by decide +kernel, by decide +kernel, by decide +kernel, by decide +kernel, by decide +kernel⟩

/-- SweepsComplete: the last row of a sweep of two bf16 elements in X, and a NaN. -/
def aSweep : SweepCmd := ⟨0, 3, 0, false, 0x3FFFC, false, 2, 1, 0, 8, none, [], 0, 0, false, 0, 0, 0, [], [], .pub, none⟩
theorem wit_sweep : ((base.modCore 0 (fun k => { k with sweeps := [aSweep] })).core 0).sweeps = [aSweep] ∧ aSweep.next = aSweep.rows - 1 ∧
    aSweep.ty ∈ [8#4, 9, 10] ∧ aSweep.fn < 9 ∧
    ((base.modCore 0 (fun k => { k with sweeps := [aSweep] })).core 0).bufOk false 0 (2 * 2) = true ∧
    (∀ l ∈ linesOf 0 4, ((base.core 0).xtags.get LineTag.reset l).fmt = 0) ∧ (base.core 0).x.wf = true := by decide +kernel
theorem wit_sweep_nan : bf16Fmt.read 0x7FC0 = .nan ∧ ffmt aSweep.ty = some bf16Fmt := ⟨by decide +kernel, rfl⟩

/-- CollectivesComplete: the sends of two ranks with two elements each. -/
theorem wit_sends : [[1, 2], [3, 2 ^ 32 - 1]].length = 2 ∧ 1 < 2 ∧ 1 ≤ 2 ∧
    (∀ l ∈ [[1, 2], [3, 2 ^ 32 - 1]], l.length = 2 ∧ ∀ v ∈ l, v < 2 ^ 32) ∧
    (∀ l ∈ [[1, 2, 3, 4], [5, 6, 7, 2 ^ 32 - 1]], l.length = 2 * 2 ∧ ∀ v ∈ l, v < 2 ^ 32) := by decide

/-- A part of a collective of one rank, of one element. -/
def aPart (op : Nat) (w : Option Who) : CollPart := ⟨0, w, op, 2, 1, [], [], [], 0x10000, 0x10400, none, [], 0, [], [], 1, false, 0, []⟩
def oneRank : Coll := ⟨0, 0, 0, 1, [aPart 0 (some me)], false⟩
def colling (c : Coll) : State := { base with colls := [c] }

/-- CollectivesComplete: an instance of one rank that completes, one whose two ranks differ, and one that lacks a rank. -/
theorem wit_one_rank : (colling oneRank).colls[0]? = some oneRank ∧ ((colling oneRank).part 0).state ≠ .descheduled ∧
    (colling ⟨0, 0, 0, 2, [aPart 0 (some me), aPart 1 none], false⟩).collReady ⟨0, 0, 0, 2, [aPart 0 (some me), aPart 1 none], false⟩ = true ∧
    (aPart 0 (some me)).op ≠ (aPart 1 none).op ∧ (aPart 1 none).who = none ∧
    (colling ⟨0, 0, 0, 2, [aPart 0 (some me)], false⟩).collReady ⟨0, 0, 0, 2, [aPart 0 (some me)], false⟩ = false := by decide +kernel
/-- The part with what it has read, the state after that, and whether the receive buffer is written whole. -/
def oneRankPart (r : SendRead) : CollPart := { aPart 0 (some me) with bytes := r.part.bytes, senses := r.part.senses, sent := r.part.sent }
def oneRankAll (r : SendRead) : Coll := { oneRank with parts := [oneRankPart r], got := true }
def oneRankRead (r : SendRead) : State := { r.s with colls := r.s.colls.modify 0 (fun _ => oneRankAll r) }
def oneRankWrites (r : SendRead) : Bool :=
  let q := oneRankPart r
  let u := oneRankRead r
  let v := u.writeRecv (u.partCtx me q) (collTag q.ty) q.recv 0 (recvLen 2 0 (2 ^ 32) 1) (collResult q.op q.ty q.n 0 [q.bytes])
    (collSens q.op q.ty q.n 0 [q.senses])
  decide (r.part = q) && !r.waits && r.failed.isNone && decide (q.bytes.length = 4) && decide (r.s.colls = (colling oneRank).colls) &&
    decide (r.s.segmentDests (oneRankAll r) me q = []) && !u.segmentsCross (oneRankAll r) && v.failed.isNone && !v.waits &&
    v.s.collMayEnd (oneRankAll r) && decide (v.s.colls = u.colls)

/-- The read of the one rank, and one that waits for a translation. -/
def reading (a : Nat) : SendRead :=
  let s := colling { oneRank with parts := [{ aPart 0 (some me) with send := a }] }
  s.readSend (s.partCtx me { aPart 0 (some me) with send := a }) (s.collAway oneRank 0) (recvLen 2 0 (2 ^ 32) 1) 4 { aPart 0 (some me) with send := a }
theorem wit_one_rank_read : oneRankWrites (reading 0x10000) = true ∧ sendLen 0 2 1 1 = 4 := by decide +kernel
theorem wit_one_rank_waits : (let r := reading 0x700000; r.waits && r.failed.isNone && decide (r.part = { aPart 0 (some me) with send := 0x700000 }) &&
      decide (r.s.colls = (colling { oneRank with parts := [{ aPart 0 (some me) with send := 0x700000 }] }).colls)) = true ∧
    (aPart 0 (some me)).sends 1 = 4 ∧ (colling oneRank).collReady oneRank = true := by decide +kernel
theorem wit_one_rank_state : (colling oneRank).collPeers oneRank = [] ∧ oneRank.got = false ∧ (aPart 0 (some me)).done = 0 ∧
    oneRank.index ≤ oneRank.index := by decide +kernel

/-- CopiesComplete: a copy of one row from X to Y at the ends of both, with a counter, and an ABSORB of an open session. -/
def aCopy (absorb : Bool) : CopyCmd :=
  ⟨1, 0, ⟨0, 262080, 1, 131008, 64, 1, 1, 0, 0, 0, 0, 0, 0, none⟩, false, some ⟨.cistern 0 3, 3, 1⟩, [], 0, 0, [], [], none, absorb, [], 0,
    [], false, CopyGot.empty⟩
def aSession : Session := ⟨9, 0xFFFF, List.replicate 64 0, .pub, 0x10000, ⟨.cistern 0 3, 3, 1⟩, [], false, none, 0, false, none, 5⟩
def copied (absorb : Bool) : State :=
  (rich.modCtx me (fun c => { c with session := some aSession, sealState := 1 })).modCore 0 (fun k => k.setChan 2 [aCopy absorb])
theorem wit_copy : (∀ b ∈ [false, true], ((copied b).core 0).chan 2 = [aCopy b] ∧ (aCopy b).shape.src + 64 ≤ 262144 ∧
      (aCopy b).shape.dst + 64 ≤ 131072 ∧ ((copied b).core 0).bufOk false (aCopy b).shape.src 64 = true ∧
      (copied b).ctrValue (.cistern 0 3) + 1 < 2 ^ 64) ∧
    (∀ e ∈ ((copied true).core 0).absorbs 0, (aCopy true).id ≤ e.2.id) ∧ ((copied true).ctx me).session = some aSession ∧
    aSession.failed = none ∧ aSession.stopped = false ∧ ((copied true).core 0).y.wf = true := by decide +kernel

/-- SealAndKeyEvents: a closing session whose record is written. -/
def closing : State := rich.modCtx me (fun c => { c with session := some aSession, sealState := 2 })
theorem wit_closing : (closing.ctx me).session = some aSession ∧ (closing.ctx me).sealState = 2 ∧ (closing.core 0).absorbs 0 = [] ∧
    aSession.metaBytes.length = 64 := by decide +kernel

/-- SealAndKeyEvents: a rotation that waits for its key, and one that waits for its sweep; a line under the previous version. -/
def rotating (inst : Bool) : State :=
  ({ rich with lineKeys := [(0x400, ⟨1, 0⟩), (0x401, ⟨2, 0⟩)] } : State).modKey 1 (fun q => { q with ty := 1, ver := 1, sweep := inst, pv := inst })
    |>.modCore 0 (fun k => { k with misc := [.krot 0 0 1 ⟨.cistern 0 3, 3, 1⟩ inst 0 0] })
theorem wit_rotation : (rotating false).nextKrot = some (0, .krot 0 0 1 ⟨.cistern 0 3, 3, 1⟩ false 0 0) ∧
    (rotating true).findMisc (fun m => match m with
      | .krot _ _ j _ inst _ _ => j.toNat = 1 && inst
      | _ => false) = some (0, .krot 0 0 1 ⟨.cistern 0 3, 3, 1⟩ true 0 0) ∧ ((rotating true).key 1).sweep = true ∧
    (rotating true).ctrValue (.cistern 0 3) + 1 < 2 ^ 64 ∧ (rotating true).lineKeys.find? 0x400 = some ⟨1, 0⟩ ∧
    (0 : BitVec 16) = ((rotating true).key 1).pver ∧ (rotating true).lineKeys.find? 0x401 = some ⟨2, 0⟩ := by decide +kernel

/-- ScrubAndImageEvents: commands in flight. -/
def scrubbed : State := rich.modCore 0 (fun k => { k with misc := [.scrub 0 15 0 0 (some (4, 0)) ⟨.cistern 0 3, 3, 1⟩ 1] })
theorem wit_scrubbed : ((scrubbed.core 0).misc.find? (fun m => match m with
    | .scrub x .. => x = 0
    | _ => false)) = some (.scrub 0 15 0 0 (some (4, 0)) ⟨.cistern 0 3, 3, 1⟩ 1) ∧ scrubbed.ctrValue (.cistern 0 3) + 1 < 2 ^ 64 ∧
    (15#5).getLsbD 3 = true ∧ (scrubbed.window 0 (scrubbed.ctx me).part).1 / 8192 ≤ 0 / 256 % 512 ∧
    0 / 256 % 512 < ((scrubbed.window 0 (scrubbed.ctx me).part).1 + (scrubbed.window 0 (scrubbed.ctx me).part).2) / 8192 := by decide +kernel

/-- A CKPT of one range of 8 bytes of X: its list is at 0x10800, its image at 0x11000. -/
def checkpointing : State :=
  ({ rich with hbm := rich.hbm.putBytes 0x10808 (leBytes 8 8) } : State).modCore 0 (fun k => { k with misc :=
    [.ckpt 0 0x10800 1 0x11000 9 none 0 (0, 0, 0) 1 ⟨.cistern 0 3, 3, 1⟩ 0 [] [] 1] })

/-- The engine of context 0. -/
def engine : EngCtx := ⟨me, 0, 0, [], [], 1⟩

/-- The range of the list is read and the image is stored. -/
def imageWritten (r : List Byte × Sens) (u1 : State) : Bool :=
  match readRanges engine ((cut16 1 r.1).map rangeEntry) u1 [] with
  | .ok plain u2 =>
    match (engineStoreAll engine 4 .pub ((u2.ckptImage 0 1 0 9 none (0, 0, 0) 1 r.1 plain).length / 64 + 2) u2 0x11000
        (u2.ckptImage 0 1 0 9 none (0, 0, 0) 1 r.1 plain) ⟨[], 0⟩).1 with
    | .ok _ _ => decide (plain.length = 8)
    | _ => false
  | _ => false

/-- ScrubAndImageEvents: the list is loaded, the range is read and the image is stored. -/
theorem wit_checkpoint : ∃ r u1, engineLoadAll engine 4 3 checkpointing 0x10800 16 [] .pub = .ok r u1 ∧ imageWritten r u1 = true :=
  eng_ok_of (by decide +kernel)

/-- An RSTR whose image stands at 0x11000: slot 9, one range of 8 bytes of X. -/
def restoring : State :=
  let m := (rich.hbm.putBytes 0x11000 [1, 0, 1, 0, 0, 0, 9, 0, 0, 0, 0, 0, 255, 255]).putBytes 0x11018 (leBytes 8 8)
  (withKey { rich with hbm := m.putBytes 0x11108 (leBytes 8 8) } 9 5).modCore 0 (fun k =>
    { k with misc := [.rstr 0 0x11000 0 ⟨.cistern 0 3, 3, 1⟩ 0 [] [] 1] })

/-- The image of a context that has no header, and that has one: its body is loaded and its range is written. -/
def imageRead (hd : List Byte × Sens) (u1 : State) : Bool :=
  match u1.imageKeys 0 0 hd.1 with
  | none => false
  | some keys =>
    match engineLoadAll engine 4 (8 / 64 + 3) u1 (0x11000 + 1280) (8 + 16) [] .pub with
    | .ok body u2 =>
      (match (writeRanges engine ((cut16 1 (hd.1.drop 256)).map rangeEntry) u2
          (streamXor keys ((hd.1.drop 128).take 12) (body.1.take 8)) ⟨[], 0⟩).1 with
      | .ok _ _ => decide (leNat ((hd.1.drop 24).take 8) = 8 ∧ (hd.1.getD 2 0).toNat = 1)
      | _ => false)
    | _ => false

/-- ScrubAndImageEvents: an RSTR whose header is refused, and one whose header is taken. -/
theorem wit_restore : (∃ hd u1, engineLoadAll engine 4 22 restoring 0x11000 1280 [] .pub = .ok hd u1 ∧ imageRead hd u1 = true) ∧
    (∃ hd u1, engineLoadAll engine 4 22 checkpointing 0x11000 1280 [] .pub = .ok hd u1 ∧ decide (u1.imageKeys 0 0 hd.1 = none) = true) :=
  ⟨eng_ok_of (by decide +kernel), eng_ok_of (P := fun (hd : List Byte × Sens) u1 => decide (u1.imageKeys 0 0 hd.1 = none)) (by decide +kernel)⟩

/-- SealAndKeyEvents: the record of a session that closes is stored. -/
def recorded : State := closing.modKey 3 (fun k => { k with sessions := 1 })
theorem wit_record : ∃ v r, engineStoreAll engine 4 (recorded.recordSens engine aSession) 80 recorded 0x10000
    (recorded.sealRecord me aSession 1 0 1) ⟨[], 0⟩ = (.ok () v, r) := stored_of (by decide +kernel)

/-! ### Cycles, launches and tasks -/

/-- A core whose placed code is one syllable; without its line in the cache; at its limit. -/
def coded (i : Instr) : State := State.reset.placeCode (encodeWords i true)
def uncached : State := base.modCore 0 (fun k => { k with icache := [] })
def atLimit (s : State) : State := s.modCore 0 (fun k => { k with pwrlim := 0, weights := [200] })

/-- A bundle of one false guard that may be skipped; an LD of S space; an ADD. -/
def nulledBundle : State := coded (.add ⟨1, false⟩ 5 6 7)
def bankedBundle : State := coded (.ld .always 5 1 3 0 0)

/-- CycleEvents, ActiveCyclesCount: the hypotheses of each kind of cycle of core 0. -/
theorem wit_nullified : nulledBundle.ready me = true ∧ (nulledBundle.ctx me).raises = false ∧ (nulledBundle.ctx me).bubbles = 0 ∧
    (nulledBundle.core 0).switching = none ∧ nulledBundle.served 0 = me ∧
    ∃ ws sl, nulledBundle.nextSlots me = some (ws, sl) ∧ (nulledBundle.cacheHit me ws.length && (nulledBundle.ctx me).nullifies sl) = true :=
  ⟨by decide +kernel, by decide +kernel, by decide +kernel, by decide +kernel, by decide +kernel, slots_of (by decide +kernel)⟩
theorem wit_banked : bankedBundle.ready me = true ∧ (bankedBundle.ctx me).bubbles = 0 ∧ (bankedBundle.core 0).switching = none ∧
    bankedBundle.served 0 = me ∧ ∃ ws sl, bankedBundle.nextSlots me = some (ws, sl) ∧ decide (bankedBundle.bundleBanks me sl ≠ []) = true :=
  ⟨by decide +kernel, by decide +kernel, by decide +kernel, by decide +kernel,
    slots_of (P := fun _ sl => decide (bankedBundle.bundleBanks me sl ≠ [])) (by decide +kernel)⟩
theorem wit_fetching : (uncached.core 0).arrayIdle ∧ uncached.ready me = true ∧ uncached.cacheHit me 1 = false ∧ uncached.served 0 = me ∧
    ∃ ws, uncached.fetchBundle me = .ok ws ∧ ws.length = 1 :=
  ⟨⟨rfl, rfl, rfl⟩, by decide +kernel, by decide +kernel, by decide +kernel, [0x82600000], fetched_ok (by decide +kernel), rfl⟩

/-- Context 0 waits for a counter and context 1 has a task. -/
def twoContexts : State :=
  (base.modCtx me (fun c => { c with block := some (.cwait (.cistern 0 3) 3 1) })).modCtx ⟨0, 1⟩ (fun _ => base.ctx me)
theorem wit_switch : twoContexts.ready (twoContexts.served 0) = false ∧ (twoContexts.ctx (twoContexts.served 0)).bubbles = 0 ∧
    (twoContexts.core 0).ownsForwarding 0 = false ∧ (twoContexts.core 0).switching = none ∧ twoContexts.pick 0 = some 1 ∧ 1 ≠ (twoContexts.core 0).last % 4 ∧
    twoContexts.coreFrozen 0 = false ∧ (twoContexts.core 0).arrayIdle :=
  ⟨by decide +kernel, by decide +kernel, by decide +kernel, by decide +kernel, by decide +kernel, by decide +kernel, by decide +kernel,
    rfl, rfl, rfl⟩
theorem wit_limited : ((atLimit base).core 0).limited ((atLimit base).nextWeight 0) = true ∧
    (uncached.core 0).limited ((uncached.core 0).engineWeight none) = false ∧
    (twoContexts.core 0).limited ((twoContexts.core 0).engineWeight none) = false ∧ (bankedBundle.core 0).bankLost = false := by
  decide +kernel
def bubbling : State := { base.modCtx me (fun c => { c with bubbles := 2 }) with agenda := [.cycle 0] }
theorem wit_bubble : bubbling.coreFrozen 0 = false ∧ bubbling.agenda = .cycle 0 :: [] ∧ bubbling.power = .d0 ∧ (bubbling.core 0).switching = none ∧ (bubbling.ctx (bubbling.served 0)).bubbles ≠ 0 ∧
    (bubbling.ctx (bubbling.served 0)).priv = false ∧ (bubbling.core 0).limited ((bubbling.core 0).engineWeight (some 0)) = false := by
  decide +kernel
theorem wit_landing : ∀ e ∈ (base.ctx me).latch, 0 < e.rem := by decide +kernel

/-- A partition with a pool share and one task, its record at 0x10100: entry 0x10000, BUDGET 100 and `plen` parameter words at 0x10108;
a nest record of one level of two at 0x10200, of NEST_NO 1. -/
def tasked (share plen : Nat) : State :=
  let r := leBytes 8 0x10000 ++ leBytes 8 (plen * 2 ^ 56 + 0x10108) ++ leBytes 8 0 ++ leBytes 8 (100 * 65536)
  let n := leBytes 8 (2 ^ 46 + 65536) ++ leBytes 24 0 ++ leBytes 8 2 ++ leBytes 8 0
  { rich with
    parts := [(0, { richPart with taskLen := 1, taskBase := 0x10100, tenantMap := [0], poolShare := share })]
    hbm := (rich.hbm.putBytes 0x10100 r).putBytes 0x10200 n }

/-- A SPAWN of a task, and a launch of a nest. -/
def aSpawn (h : Word) : Launch := ⟨0, .spawn me, 0, h, 0, 0, 0, 4096, [], none, none, none, none, 0⟩
def aNestLaunch : Launch := ⟨0, .hostNest 0, 0, 0x10200, 0, 0, 0, 4096, [], none, none, none, none, 0⟩

/-- A pump with a launch in its inbox and an entry in slice 0's Wellhead. -/
def offered (share : Nat) (l : Launch) : State := ((tasked share 0).modSlice 0 (fun x => { x with well := [⟨l, false⟩] })).modDie 0 (fun d =>
  { d with inbox := [l] })

/-- LaunchEvents: an entry of a Wellhead and a launch of an inbox, with room in the pool and without, and one of a bad number. -/
theorem wit_offers : (∀ n ∈ [0, 4], (∃ v t, (offered n (aSpawn 0)).offer 0 (aSpawn 0) = .ok v t ∧
      (t.takes (dieOf v.1) (aSpawn 0) == decide (n = 4)) = true) ∧ sliceDie 0 = 0 ∧ (offered n (aSpawn 0)).scheduled 0 = true ∧
      (offered n (aSpawn 0)).foreignTask 0 0 0 = false ∧ ((offered n (aSpawn 0)).slice 0).well = [⟨aSpawn 0, false⟩] ∧
      ((offered n (aSpawn 0)).die 0).inbox[0]? = some (aSpawn 0) ∧ (offered n (aSpawn 0)).pubs = [] ∧
      (offered n (aSpawn 0)).sourceHeld 0 (0, 0) = false) := by
  intro n hn
  simp only [List.mem_cons, List.not_mem_nil, or_false] at hn
  obtain rfl | rfl := hn
  · exact ⟨eng_ok_of (P := fun (v : Nat × TaskRec) t => t.takes (dieOf v.1) (aSpawn 0) == decide (0 = 4)) (by decide +kernel), by decide +kernel⟩
  · exact ⟨eng_ok_of (P := fun (v : Nat × TaskRec) t => t.takes (dieOf v.1) (aSpawn 0) == decide (4 = 4)) (by decide +kernel), by decide +kernel⟩
theorem wit_bad_offer : (offered 4 (aSpawn 1)).offer 0 (aSpawn 1) = .fail 0 0 (offered 4 (aSpawn 1)) := by
  have h : (offered 4 (aSpawn 1)).foreignTask (aSpawn 1).part (aSpawn 1).taskNo (aSpawn 1).tenant = true := by decide +kernel
  unfold State.offer State.readTask
  rw [if_pos h]
  rfl
theorem wit_nest_offer : ((offered 4 aNestLaunch).die 0).inbox[0]? = some aNestLaunch ∧ aNestLaunch.handle.toNat % 128 = 0 ∧
    aNestLaunch.handle.toNat < 2 ^ 56 ∧ (offered 4 aNestLaunch).scheduled 0 = true ∧
    ∃ bs t, (offered 4 aNestLaunch).pumpRead (.pump 0) 0 0 0x10200 128 = .ok bs t ∧ (t.nestRecOk 0 bs && t.takes 0 aNestLaunch) = true :=
  ⟨by decide +kernel, by decide, by decide, by decide +kernel,
    eng_ok_of (P := fun bs t => t.nestRecOk 0 bs && t.takes 0 aNestLaunch) (by decide +kernel)⟩

/-- A task in the pool, that is ready. -/
def aTask (plen : Nat) : PoolTask :=
  ⟨7, 1, aSpawn 0, ⟨0, 0, 0x10000, plen, 0x10108, false, 0, 0, false, false, 0, 0, 100, 0, []⟩, 0, 0, [], [], some (0, 0)⟩
def handing : State := (tasked 4 0).modDie 0 (fun d => { d with handed := [aTask 0] })

/-- A host launch queue in RUN: an entry of each kind of clause at its head. -/
def hosting (head : BitVec 32) : State :=
  { tasked 4 0 with
    host := (rich.host.putBytes 0 (leBytes 8 1)).putBytes 32 (leBytes 8 5)
    ifaces := [(0, { Iface.reset with tdi := 2, lqsize := 4, lqhead := head, lqtail := 2 })] }
/-- The launch of its first entry. -/
def hostEntry : Launch := ⟨0, .host 0, 0, 0, 0, 0, 0, (richPart.age).toNat, [], none, none, none, none, 0⟩
theorem wit_hosting : (handing.die 0).handed = [aTask 0] ∧ (∀ h ∈ [(0, 1), (1, 5)], ((hosting (BitVec.ofNat 32 h.1)).iface 0).tdi = 2 ∧
      ((hosting (BitVec.ofNat 32 h.1)).iface 0).lqhead ≠ ((hosting (BitVec.ofNat 32 h.1)).iface 0).lqtail ∧
      (hosting (BitVec.ofNat 32 h.1)).scheduled 0 = true ∧
      wordAt ((hosting (BitVec.ofNat 32 h.1)).host.bytes (32 * (h.1 % 2 ^ 4)) 32) 0 = h.2 ∧
      wordAt ((hosting (BitVec.ofNat 32 h.1)).host.bytes (32 * (h.1 % 2 ^ 4)) 32) 1 = 0 ∧
      (hosting (BitVec.ofNat 32 h.1)).sourceHeld 0 (3, 0) = false ∧ ((hosting (BitVec.ofNat 32 h.1)).iface 0).defcore.toNat / 256 = 0 ∧
      ((hosting (BitVec.ofNat 32 h.1)).iface 0).tslot = 0 ∧ ((hosting (BitVec.ofNat 32 h.1)).iface 0).lqheld = none) ∧
    ∃ v t, (hosting 0).offer 0 hostEntry = .ok v t ∧ t.takes (dieOf v.1) hostEntry = true := by
  refine ⟨by decide +kernel, by decide +kernel, eng_ok_of (P := fun (v : Nat × TaskRec) t => t.takes (dieOf v.1) hostEntry) (by decide +kernel)⟩
/-- TaskStartEvents: an idle context and a candidate without and with a parameter block; waiters that hold. -/
def starting (plen : Nat) : State :=
  ((tasked 4 plen).modCtx me (fun c => { c with task := none })).modDie 0 (fun d => { d with pool := [aTask plen], cycles := 1 })
def waiting : State := (rich.modCtx me (fun c => { c with block := some (.cwait (.cistern 0 3) 3 0) })).modDie 0 (fun d =>
  { d with waiters := [.ctx me (.cistern 0 3) 0 true] })
def waitingTask : State := rich.modDie 0 (fun d => { d with waiters := [.task 5 (.cistern 0 3) 0 true] })
theorem wit_starting : (∀ n ∈ [0, 1], ((starting n).ctx me).task = none ∧ (starting n).candidate 0 = some (aTask n) ∧
      (starting n).selects 0 0 = true ∧ (starting n).stolenBelow 0 (aTask n) = false ∧ ((starting n).core 0).x.wf = true) ∧
    (waiting.die 0).waiters.find? Waiter.due = some (.ctx me (.cistern 0 3) 0 true) ∧
    (waiting.ctx me).block = some (.cwait (.cistern 0 3) 3 0) ∧
    (waitingTask.die 0).waiters.find? Waiter.due = some (.task 5 (.cistern 0 3) 0 true) := by decide +kernel
theorem wit_parameters : ∃ bs v, paramLoop (.pump 7) me 0 (((starting 1).unpool 0 7).startCtx me (aTask 1)).vis (linePieces 0x10108 8)
    ((starting 1).unpool 0 7) [] = .ok bs v ∧
    decide (bs.length = 8) = true := eng_ok_of (P := fun (bs : List Byte) _ => decide (bs.length = 8)) (by decide +kernel)

/-- NestAndRetirementEvents: a nest before its staging, with a tuple to place, and with nothing left. -/
def aNest (staged : Bool) (next : Option (List Nat)) : Nest :=
  ⟨8, aNestLaunch, 0x10200, ⟨1, 3, 0, true, 0, 0, 0, [(2, 0, 0)], 0x10300, 1, []⟩, [], staged, 0, none, [], next, [], none, [], []⟩
def nesting (staged : Bool) (next : Option (List Nat)) : State := (tasked 4 0).modDie 0 (fun d => { d with nests := [aNest staged next] })
/-- The launch of its first tuple. -/
def tupleLaunch (t : State) : Launch :=
  { aNestLaunch with src := .nest 8 [0], handle := 0, age := (t.part 0).age.toNat, pub := none, chosen := none, held := none, dest := none, picked := 0 }
theorem wit_nests : (∀ b ∈ [false, true], ∀ n ∈ [none, some [0]], ((nesting b n).die 0).nests[0]? = some (aNest b n) ∧
      (nesting b n).scheduled 0 = true ∧ (nesting b n).ctrValue (.cistern 0 3) + 1 < 2 ^ 64) ∧
    ∃ r t, (nesting true (some [0])).readTask (.pump 8) 0 0 0 0 = .ok r t ∧ t.takes (dieOf (t.tupleCore 0 [(2, 0, 0)] [0])) (tupleLaunch t) = true :=
  ⟨by decide +kernel, eng_ok_of (P := fun _ t => t.takes (dieOf (t.tupleCore 0 [(2, 0, 0)] [0])) (tupleLaunch t)) (by decide +kernel)⟩
theorem wit_staging : (∀ a ∈ [0x10000, 0x700000],
    let s : State := { nesting false (some [0]) with hbm := (nesting false none).hbm.putBytes 0x10300 (leBytes 8 a ++ leBytes 8 0x10400 ++ leBytes 8 64) }
    let r := stageLoop (s.stageCtx 0 (aNest false (some [0]))) stageMost s (aNest false (some [0]))
    (r.failed, r.waits) = (false, decide (a = 0x700000)) ∧ (aNest false (some [0])).ranges < (aNest false (some [0])).nrec.wsn) := by decide +kernel

/-- NestAndRetirementEvents: a context that has ended, with nothing and with a store held, and one that a fault ends. -/
def theTask : TaskInfo := ⟨0, .core, true, 0, 3, none, 0⟩
def ended (ts : List Store) (last : Option Nat) (stop : Option (BitVec 8)) : State :=
  rich.modCtx me (fun c => { c with task := some theTask, ending := last, terminating := stop, stores := ts })
theorem wit_ended : (∀ s ∈ [ended [] (some 0) none, ended [aStore] (some 0) none, ended [] none (some 3)],
      (s.ctx me).task = some theTask ∧ (s.ctx me).counts = Counts.zero ∧ (s.core 0).passDone 0 = true ∧ (s.ctx me).reports = [] ∧
      s.pubs = [] ∧ s.ctrValue (.cistern 0 3) + 1 < 2 ^ 64 ∧ (s.ctx me).session = none) ∧
    ((ended [] (some 0) none).ctx me).stores = [] ∧ ((ended [aStore] (some 0) none).ctx me).stores ≠ [] ∧
    ((ended [] none (some 3)).ctx me).terminating = some 3 := by decide +kernel

/-! ### The host, links, power and the management core -/

/-- A die with one translation request of page 2 for a write, and one page of its cache. -/
def asking (pri stale : Bool) : State := rich.modDie 0 (fun d => { d with ats := [⟨⟨0, 2, true⟩, pri, stale, [.slot me]⟩], invalidations := [[]] })

/-- TranslationEvents: a request in each of its states; replies that grant it and that grant too little. -/
theorem wit_translation : (∀ b ∈ [(false, false), (false, true), (true, false)],
      ((asking b.1 b.2).die 0).ats[0]? = some ⟨⟨0, 2, true⟩, b.1, b.2, [.slot me]⟩) ∧
    replyGrants ⟨true, 0x2000, 12, .hbm 0x20000, true⟩ ⟨0, 2, true⟩ = true ∧
    replyGrants ⟨true, 0x2000, 12, .hbm 0x20000, false⟩ ⟨0, 2, true⟩ = false ∧
    (((asking false false).die 0).ats.filter (fun x => x.pri)).length < 256 ∧
    (asking false false).framesBusy ((asking false false).removedBy 0) = false ∧
    (∀ b ∈ [false, true], (asking false false).replyPossible ⟨true, 0x2000, 12, .hbm 0x20000, b⟩ = true) := by decide +kernel

/-- InterfaceEvents: an interface in each TDISP state and with each STATE, with a queue of 16 that is empty and one that is full. -/
def facing (t st : BitVec 2) : State := { rich with ifaces := [(0, { Iface.reset with tdi := t, st := st, lqsize := 4, stale := 1 })] }
theorem wit_interfaces : (∀ t ∈ [0, 1, 2, 3], ∀ st ∈ [0, 1, 2, 3], ((facing (BitVec.ofNat 2 t) (BitVec.ofNat 2 st)).iface 0).tdi = BitVec.ofNat 2 t ∧
      ((facing (BitVec.ofNat 2 t) (BitVec.ofNat 2 st)).iface 0).st = BitVec.ofNat 2 st ∧
      ((facing (BitVec.ofNat 2 t) (BitVec.ofNat 2 st)).iface 0).stale ≠ BitVec.allOnes 32 ∧
      ((facing (BitVec.ofNat 2 t) (BitVec.ofNat 2 st)).iface 0).secure = true ∧
      ((facing (BitVec.ofNat 2 t) (BitVec.ofNat 2 st)).iface 0).gen = 0) ∧
    (16#32 - ((facing 2 1).iface 0).lqhead).toNat ≤ 2 ^ ((facing 2 1).iface 0).lqsize.toNat ∧
    ¬ (17#32 - ((facing 2 1).iface 0).lqhead).toNat ≤ 2 ^ ((facing 2 1).iface 0).lqsize.toNat ∧
    (rich.part 0).cores.contains ((0#64).toNat % 1024) = true ∧ 4 ≤ (12#64).toNat % 16 ∧ (12#64).toNat % 16 ≤ 12 ∧
    ((withKey rich 3 2).key ((3#64).toNat % 8192)).ty = 2 ∧ ((withKey rich 3 2).key ((3#64).toNat % 8192)).part = ((facing 0 0).iface 0).part ∧
    (withKey rich 3 2).controlOk 0 3 0 = true := by
  decide +kernel

/-- The machine of the tests after its bring-up. -/
def managing : State := { rich with booted := 5 }

/-- PowerEvents: no partition at all, and a machine before bring-up with a FEAT of four dies. -/
theorem wit_power : (∀ e ∈ ({ base with parts := [] } : State).parts, e.2.state = .free) ∧
    ({ State.reset with booted := 0 } : State).bootFailed = none ∧ featOk (BitVec.ofNat 64 (15 + 0xFF * 2 ^ 16 + 2 ^ 40)) = true ∧
    ({ State.reset with booted := 0 } : State).managed = false ∧ managing.managed = true ∧ managing.diePresent (dieOf 0) = true ∧
    managing.bootFailed = none ∧ ({ managing with featFixed := true } : State).feat ≠ 3 ∧ managing.power ≠ .d3cold ∧
    ({ managing with power := .d3cold } : State).power = .d3cold ∧ ({ managing with bootFailed := some 2 } : State).bootFailed ≠ none := by
  decide +kernel

/-- A partition whose granules host windows open onto. -/
def windowed : State := { rich with parts := [(0, { richPart with nonconf := true })], hdm := [(0, (0x10000, 0x10000))] }
/-- A flow from context 0 to package 1 with one item, and a link that has failed n times. -/
def flowing : State := { rich with flows := [(4096, ⟨false, 1, [(0, .coll 1 0 0 0 2 1 [])], []⟩)]
                                   flowTables := [(0, [(1, 0x8000000000000000)])] }
def failing (n : Nat) : State := { rich with links := [(1, ⟨n, false, 0⟩)] }
/-- A slice that tracks row 7, activated by interface 0. -/
def tracking : State := rich.modSlice 3 (fun j => { j with tracked := [(7, 0)] })

/-- LinkAndMeterEvents: the hypotheses of its clauses. -/
theorem wit_links : windowed.windowsOpen 0x10000 64 = true ∧ windowed.rangeOk .hbm 0x10000 64 = true ∧
    windowed.windowsOpen 0x20000 64 = false ∧ windowed.windowsOpen 0x10000 2 = true ∧ 0x10000 % 64 + 2 ≤ 64 ∧
    windowed.lineOk 0x10000 = true ∧ (windowed.raiseTree 0x10000).isSome = true ∧
    ((withKey (withKey rich 5 4) 6 4).key 5).ty = 4 ∧ ((withKey (withKey rich 5 4) 6 4).key 6).ty = 4 ∧ (5 : Nat) ≠ 6 ∧
    (∀ n ∈ [6, 7], ((failing n).links.get Link.reset 1).down = false ∧ ((failing n).links.get Link.reset 1).failures = n ∧
      (failing n).linkExists 1 = true ∧ (failing n).linkExists 0 = false) ∧ (tracking.slice 3).tracked.find? 7 = some 0 ∧
    (tracking.slice 3).tracked.find? 8 = none ∧ flowing.power = .d0 ∧
    (flowing.flows.get Flow.reset 4096).items[0]? = some (0, .coll 1 0 0 0 2 1 []) ∧ flowing.flowOpen (flowPart 4096) (flowDest 4096) = true := by
  decide +kernel
theorem wit_window_memories : windowed.MemOk :=
  ⟨by decide +kernel, by decide +kernel, by decide +kernel, by decide +kernel, by decide +kernel, by decide +kernel⟩
theorem wit_delivery : (∃ t, flowing.deliver (.store 3 aStore) = some t) ∧ flowing.deliver (.coll 1 0 0 0 2 1 []) = none := ⟨⟨_, rfl⟩, rfl⟩
theorem wit_band : (([(0, 100), (1, 2000)] : List (Nat × Nat)).map Prod.fst).Nodup ∧
    ((rich.slice 0).band 0).floor ≤ ((rich.slice 0).band 0).ceiling ∧
    (([(0, 100), (1, 2000)] : List (Nat × Nat)).map (fun e => ((rich.slice 0).band e.1).floor)).sum ≤ 1024 := by decide +kernel

/-- A layout change that names partition 1 alone, one core on die 0, and one that names a core which the package lacks. -/
def newPart (core : Nat) : PartDesc :=
  { PartDesc.none with
    state := .configured, cores := [core], memKey := BitVec.ofNat 13 (2 + core), quota := [(16 + 16 * core, 16)]
    launchCtr := BitVec.ofNat 64 (16 + 16 * core), memoryCtr := BitVec.ofNat 64 (16 + 16 * core)
    engineCtr := BitVec.ofNat 64 (16 + 16 * core), taskCtr := BitVec.ofNat 64 (16 + 16 * core)
    saveArea := [0x1000000 * (core + 1)]
    faultLog := 0x100000 * (core + 1), engineRing := 0x100000 * (core + 1) + 0x10000, taskLen := 1, faultLogK := 6, engineRingK := 6, ringK := 6 }
def aChange (core : Nat) : LayoutChange := ⟨5, [(1, newPart core)], [], [], [], [], [], []⟩
def changing (j : Journal) : State := { rich.modKey 3 (fun q => { q with ty := 1, part := 1 }) with
    journal := j, booted := 5, parts := [(0, { newPart 0 with state := .running })] }

/-- LayoutEvents: a change accepted and refused, and the journal in each phase; a partition that runs and one that has stopped. -/
theorem wit_layout : (changing .idle).journal = .idle ∧ layoutAccepted (aChange 1) (changing .idle) = true ∧
    layoutAccepted (aChange 2000) (changing .idle) = false ∧
    (∀ e ∈ (aChange 1).parts, (rich.part e.1).state = .free ∨ (rich.part e.1).state = .configured) ∧
    ((aChange 1).parts.map Prod.fst).Nodup ∧ (∀ e ∈ (aChange 1).parts, e.2.state ≠ .running) ∧
    (∀ e ∈ [(0, richPart)], e.2.state = .running → (rich.part e.1).state = .running) ∧ (rich.part 0).state = .running ∧
    (0 ∈ (rich.part 0).cores) ∧ (rich.ctx me).task ≠ none := by decide +kernel
def stopped : State := { (rich.modCtx me (fun c => { c with task := none })) with parts := [(0, { richPart with state := .stopping })] }
theorem wit_stopped : (stopped.part 0).state = .stopping ∧ (∀ k ∈ (stopped.part 0).cores, stopped.coreQuiet k = true) ∧
    rich.framesBusy (rich.pagesInto 2) = false ∧ rich.pagesInto 2 = [] ∧ granuleV (rich.granule (2 * 65536)) = false ∧
    (0x2000000000000000#64).toNat / 2 ^ 61 ∈ [1, 2, 3, 4, 5, 6] ∧ ((withKey rich 7 3).key 7).ty = 3 ∧
    ({ rich with linkTrust := [1] } : State).linkTrust.contains 1 = true ∧ rich.portPresent 0 = true ∧ rich.scheduled 5 = false ∧
    2 * 65536 / 65536 < managing.dieCount * 2097152 ∧ managing.dieCount * 2097152 ≤ 2 ^ 40 ∧ managing.pagesInto 2 = [] ∧
    managing.policyRefuses.contains (0, 1) = false ∧ managing.flowEntry 0 1 / 2 ^ 63 ≠ 1 ∧ managing.flowLegal 0 2000 0 = false ∧
    (({ flowing with booted := 5 } : State).flowEntry 0 1 / 2 ^ 63 = 1 ∧ (0x8800000000000000#64).toNat / 2 ^ 63 = 1 ∧
      ({ flowing with booted := 5 } : State).flowEntry 0 1 / 2 ^ 59 % 16 ≠ (0x8800000000000000#64).toNat / 2 ^ 59 % 16) := by
  decide +kernel

/-- TimeSliceEvents: a group of two, with a member that runs, with one to start and with one to resume. -/
def sharing (running : Option Nat) (st : PartState) (saved : SMap Saved) : State :=
  { rich with
    groups := [⟨[(0, 10), (1, 10)], running, 1⟩], saved := saved
    parts := [(0, { richPart with state := st }), (1, { newPart 0 with state := .configured })] }
def theSaved : Saved := ⟨1, [], [(0, Core.reset)], [], [], []⟩
theorem wit_groups : (sharing (some 0) .running []).groups[0]? = some ⟨[(0, 10), (1, 10)], some 0, 1⟩ ∧
    2 ≤ ([(0, 10), (1, 10)] : List (Nat × Nat)).length ∧ ((sharing (some 0) .running []).part 0).state = .running ∧
    (sharing (some 0) .running []).drained ((sharing (some 0) .running []).part 0).cores = true ∧
    (∀ v ∈ [[], [(0, theSaved)]], (sharing none .descheduled v).groupBusy ⟨[(0, 10), (1, 10)], none, 1⟩ = false ∧
      (sharing none .descheduled v).heldByChange 0 = false) ∧
    (∀ v ∈ [[], [(0, theSaved)]], (sharing none .descheduled v).groups[0]? = some ⟨[(0, 10), (1, 10)], none, 1⟩ ∧
      Group.next ⟨[(0, 10), (1, 10)], none, 1⟩ (fun m => ((sharing none .descheduled v).part m).state = .descheduled &&
        !(sharing none .descheduled v).heldByChange m) = some 0) ∧
    (sharing none .descheduled []).saved.find? 0 = none ∧ (sharing none .descheduled [(0, theSaved)]).saved.find? 0 = some theSaved ∧
    (sharing none .descheduled [(0, theSaved)]).imagesOk 0 theSaved = true ∧ (theSaved.cores.map Prod.fst).Nodup := by
  decide +kernel

/-- LayoutEvents: a descheduled partition whose cores another member holds. -/
def displaced : State :=
  { sharing (some 1) .descheduled [(0, theSaved)] with
    parts := [(0, { richPart with state := .descheduled }), (1, { newPart 0 with state := .running })] }
theorem wit_displaced : (displaced.part 0).state = .descheduled ∧ displaced.saved.find? 0 = some theSaved ∧
    displaced.imagesOk 0 theSaved = true ∧ displaced.coresTaken 0 = true ∧ (sharing none .descheduled []).saved.find? 0 = none := by
  decide +kernel

/-! ### More forms and clauses of the statements -/

/-- StepRunsTheDecodedInstruction: the banks of a bundle without an S access. -/
theorem wit_step_banks : nopTried.tryBanks me (nopTried.bundleBanks me [nopSlot]) = .taken 0 := rfl

/-- RoundingAndConversion: finite values of f32, a NaN and an infinity, an integer type and a floating-point one. -/
theorem wit_rounding : 0 < 4 ∧ f32Fmt.read 0x3F800000 = .fin false 0x800000 (-23) ∧ f32Fmt.read 0x80000000 = .fin true 0 (-149) ∧
    f32Fmt.read 0x7FC00000 = .nan ∧ f32Fmt.read 0xFF800000 = .inf true ∧ ffmt 10 = some f32Fmt ∧ typeIn 1 7 (5#4) = true :=
  ⟨by decide, by decide +kernel, by decide +kernel, by decide +kernel, by decide +kernel, rfl, by decide +kernel⟩

/-- AccessChecksTrap: a page that is held, and accepted data of a v and of a q register. -/
theorem wit_access_held : (∀ ms, (setG rich 2 0x1FFF8).reachAll .load .pub (linePieces 0x1FFF8 8) ≠ .inr ms) ∧
    (∃ x, rich.readV 5 = some x ∧ (2#4 = 0 ∨ x.fmt = 0 ∨ x.fmt = 2)) ∧
    (2#4 = 0 ∨ (rich.cur.readQ 3).fmt = 0 ∨ (rich.cur.readQ 3).fmt = 2) :=
  ⟨fun ms h => (by
    rw [show (setG rich 2 0x1FFF8).reachAll .load .pub (linePieces 0x1FFF8 8) =
      .inl (.ok [⟨.hbm, 0x1FFF8, 0x1FFF8, ⟨0, 0x1F, false⟩, 0, 8⟩]) from rfl] at h
    cases h), ⟨_, rfl, by decide⟩, by decide +kernel⟩

/-- VLDS of four-byte elements from a base with a stride. -/
def stridden (base stride : Word) : List (Nat × Word) :=
  let s := setM0 (setG (setG rich 2 base) 3 stride)
  s.elements 5 64 (fun i => s.gw 2 + BitVec.ofNat 64 i * s.gw 3)

/-- AccessChecksTrap, elements: one beyond X, one of a high global address, one misaligned, none active. -/
theorem wit_access_elements :
    (stridden 0x10000 0x30000).find? (fun e => 262144 < e.2.toNat + 4) = some (1, 0x40000) ∧
    (stridden 0x10000 (2 ^ 56)).find? (fun e => 2 ^ 56 ≤ e.2.toNat) = some (1, 0x100000000010000) ∧
    (stridden 0x10001 4).find? (fun e => 262144 < e.2.toNat + 4) = none ∧
    (stridden 0x10001 4).find? (fun e => e.2.toNat % 4 != 0) = some (0, 0x10001) ∧ (stridden 0x10000 4).head? = some (0, 0x10000) ∧
    striding.v31Busy 6 = false := by decide +kernel

/-- AtomicsIssue and CountersRun: stores to release, and a reached target above PUB. -/
theorem wit_release : (let s := rich.modCtx me (fun c => { c with stores := [⟨5, 0, .hbm, 0x10008, [1, 2], 0, .pub, ⟨0, 0x10, true⟩⟩] })
     s.cur.stores ≠ [] ∧ s.cur.counts.gs < 48 ∧ (3#2).getLsbD 1 = true ∧ (1#2).getLsbD 1 = false) ∧
    (setTen rich 2 0).gsens 2 ≠ .pub ∧ ((setTen rich 2 0).gw 2).toNat ≤ (setTen rich 2 0).ctrValue (.cistern 0 0) := by decide +kernel

/-- VectorTagMismatchTraps: a destination of another type into which the mask merges, and VCLAMP's upper bound. -/
theorem wit_mismatch_merge :
    let s := setV (setV base 5 0 8) 9 0 8
    let ok (r : BitVec 5) : Bool := (s.vreg r).fmt = 1 || ((s.vreg r).fmt = 0 && true)
    ([6, 7] ++ [5] : List (BitVec 5)).find? (fun r => !ok r) = some 5 ∧ ([6, 8, 9] : List (BitVec 5)).find? (fun r => !ok r) = some 9 ∧
    ([6, 7, 5].any (fun r => (s.readV r).isNone) || s.v31Busy 5) = false ∧ typeIn 1 7 (1#4) = true ∧ typeIn 1 10 (1#4) = true := by
  decide +kernel

/-- ArrayEvents: a pass of three rows that swaps, in a cycle of its context, before the Transom opens and in it. -/
def passing (age : Nat) (rows : List RowSums) : State :=
  base.modCore 0 (fun k => { k with passes := [⟨0, false, ⟨0, 0, 3, 0, 1, false, true, false⟩, true, age, rows⟩] })
def transoming (age : Nat) (rows : List RowSums) : State :=
  let s := passing age rows
  { s with issue := { s.issue with overlay := s.transomRow me [nopSlot] } }
def oneRow : RowSums := ⟨0, List.replicate 64 7, .pub⟩
theorem wit_transom : (∀ a ∈ [2, 7], ∀ rows ∈ [[], [oneRow]],
      ((transoming a rows).core 0).passes.map (fun p => (p.fwd, p.ctx, decide (p.age ≤ p.last))) = [(true, 0, true)] ∧
      (((transoming a rows).core 0).ctx 0).priv = false ∧ (transoming a rows).issue.core = 0 ∧ (transoming a rows).issue.ctx = 0) ∧
    (∀ p ∈ ((passing 1 []).core 0).passes, p.args.sw = true ∧ p.age = 1) ∧
    (let s := (passing 7 [oneRow]).modCtx me (fun c => { c with ending := some 1 })
     ((s.core 0).ctx 0).spent = true ∧ s.coreFrozen 0 = false) := by decide +kernel
theorem wit_transom_overlay (a : Nat) (rows : List RowSums) :
    (transoming a rows).issue.overlay = (transoming a rows).transomRow me [nopSlot] := rfl

/-- ArrayEvents: the Y rows of a skipped pass have not failed, and a row of activations out of range drops. -/
theorem wit_skip : (base.core 0).bufOk true (256 * skipArgs.y0) (256 * skipArgs.rows) = true ∧
    (let k := { base.core 0 with x := (base.core 0).x.put 0 3 }
     rowDropped skipArgs k 0 = true ∨ rowDropped skipArgs k 0 = false) := by decide +kernel

/-- CopySyllablesRun: an ABSORB that has hashed a part. -/
theorem wit_absorb_left :
    let s := copying.modCtx me (fun c => { c with sealState := 1 })
    s.cur.sealBytes.toNat + (((s.core 0).absorbs 0).foldl (fun m e => m + (e.2.shape.total - (e.2.done - e.2.input.length))) 0) + 64 <
      2 ^ 40 := by decide +kernel

/-- SealSyllablesRun: a metadata line that has failed. -/
theorem wit_seal_failed : (sealing.core 0).bufOk false 0 64 = true ∧
    ((sealing.modCore 0 (fun k => { k with xbad := [0] })).core 0).bufOk false 0 64 = false := by decide +kernel

/-- DeclLowers: a SEAL line of X among others, with lines beyond the space and a misaligned address. -/
theorem wit_decl_seal :
    let s := (setG (sup base) 6 (BitVec.ofNat 64 (5 + 8 * 1 + 2 ^ 16 * 1024 + 2 ^ 32 * 1))).modCore 0 (fun k =>
      { k with xtags := [(0, ⟨0, .seal, 0⟩)] })
    (s.gw 6).toNat = 5 + 8 * 1 + 2 ^ 16 * 1024 + 2 ^ 32 * 1 + 2 ^ 61 * 0 ∧ 0 ∈ s.declList 0 1 1024 ∧
      ((s.tagsOf 0).get LineTag.reset 0).sens = .seal := by decide +kernel

/-- AtomicsAtHomes: a CASL with a reserved slot, one without, and one that finds none free. -/
theorem wit_reserved :
    (let s := withOp rich (opOf aCasl)
     let t := s.modSlice (s.sliceOf 0x10008) (fun x => { x with reserved := [(me, 0, true)] })
     t.reservedBy me (opOf aCasl) (t.sliceOf 0x10008) = some true ∧ s.reservedBy me (opOf aCasl) (s.sliceOf 0x10008) = none) ∧
    (let s := (withOp base (opOf aCasl)).modSlice (base.sliceOf 0x10008) (fun x => { x with well := [⟨aLaunch, false⟩] })
     s.reservedBy me (opOf aCasl) (s.sliceOf 0x10008) = none) := by decide +kernel

/-- PublicationEvents and what completes with a counter: nothing is on a flow, and the way is free. -/
theorem wit_free_way : (advancing 0).flowReady (.advance 2) = true ∧ filling.flowReady (.fill 0 0x800 7) = true ∧
    (∀ d ∈ filling.fillDests ⟨7, me, 0x100, 0, 0x800, 0x100, 0x10000, 0, .hbm, 0x10000, .pub⟩, d < 1024 → filling.flowOpen 0 d = true) ∧
    (∀ b ∈ [false, true], (copied b).advanceMayTravel me ((copied b).ctx me).part ⟨.cistern 0 3, 3, 1⟩ = true ∧ (copied b).coreFrozen 0 = false) ∧
    closing.advanceMayTravel me 0 aSession.completion = true ∧
    (∀ b ∈ [false, true], (rotating b).advanceMayTravel me 0 ⟨.cistern 0 3, 3, 1⟩ = true) ∧
    scrubbed.advanceMayTravel me 0 ⟨.cistern 0 3, 3, 1⟩ = true ∧ checkpointing.advanceMayTravel me 0 ⟨.cistern 0 3, 3, 1⟩ = true ∧
    restoring.advanceMayTravel me 0 ⟨.cistern 0 3, 3, 1⟩ = true := by decide +kernel

/-- ReturnsAndFills: a word and a predicate, and loads of a v and of a q register. -/
theorem wit_more_returns :
    let cas : VlOp := { opOf (.cas .hbm 0x10008 true 0 7 6 1) with result := some ⟨[(.g 6, 3, 0), (.p 1, 1, 0)], none, [], []⟩ }
    let unit (i : Nat) : LoadUnit := ⟨.hbm, 0x10000 + 64 * i, 0x10000 + 64 * i, 64, 64 * i, List.replicate 64 none, ⟨0, 0x10, false⟩⟩
    let vload : VlOp := opOf (.load [unit 0, unit 1, unit 2, unit 3] (.v 5) 2)
    let qload : VlOp := opOf (.load [{ unit 0 with len := 32, fixed := List.replicate 32 none }] (.q 2) 8)
    (∀ o ∈ [cas, vload, qload], ((withOp rich o).ctx me).ops[0]? = some o ∧ ((withOp rich o).ctx me).opReady 0 = true ∧ o.wait = 0 ∧
      (withOp rich o).storesArrived me o = true ∧ (withOp rich o).flowReady (o.item me) = true ∧ (withOp rich o).linksOpen me o = true ∧
      o.dropped = []) ∧
    (∀ x ∈ [unit 0, unit 1, unit 2, unit 3], (∀ b ∈ x.fixed, b = none) ∧ rich.rangeOk x.place x.addr x.len = true) ∧
    (∀ x ∈ [unit 0, unit 1, unit 2, unit 3], ∀ y ∈ [unit 0, unit 1, unit 2, unit 3], x ≠ y → x.addr + x.len ≤ y.addr ∨ y.addr + y.len ≤ x.addr) := by
  decide +kernel

/-- SweepsComplete: a row over a line that has failed. -/
theorem wit_sweep_failed :
    let s := base.modCore 0 (fun k => { k with sweeps := [aSweep], xbad := [0] })
    (s.core 0).bufOk false (256 * 0) 1 = false ∧ s.coreFrozen 0 = false ∧ aSweep.src / 256 ≤ 0 ∧ 256 * 0 < aSweep.src + aSweep.elems * 2 ∧
      aSweep.read = [] ∧ aSweep.out = none ∧ aSweep.sens = .pub ∧ 1 ≤ aSweep.elems ∧ (s.core 0).sweeps = [aSweep] := by decide +kernel

/-- CollectivesComplete: instances that run, may end, and have a peer whose port is down. -/
def peered (done : Nat) : State :=
  { base with
    parts := [(0, { richPart with collGroups := [(2, [0, 0x10000])] })]
    ports := [0, 1, 2, 3, 4, 5, 6, 7]
    colls := [⟨0, 0, 0, 2, [{ aPart 0 (some me) with done }], false⟩] }
theorem wit_coll_runs : (colling oneRank).collRuns oneRank = true ∧ (colling oneRank).collMayEnd oneRank = true ∧
    ((colling ⟨0, 0, 0, 2, [aPart 0 (some me)], false⟩).collRuns ⟨0, 0, 0, 2, [aPart 0 (some me)], false⟩ &&
      (colling ⟨0, 0, 0, 2, [aPart 0 (some me)], false⟩).portClosed ⟨0, 0, 0, 2, [aPart 0 (some me)], false⟩) = false := by decide +kernel
theorem wit_port_down : (peered 0).collRuns ⟨0, 0, 0, 2, [aPart 0 (some me)], false⟩ = true ∧
    (⟨0, 0, 0, 2, [aPart 0 (some me)], false⟩ : Coll).locals = [(me, aPart 0 (some me))] ∧ (aPart 0 (some me)).failed = false :=
  ⟨by decide +kernel, rfl, rfl⟩
theorem wit_port_closed : (peered 0).portClosed ⟨0, 0, 0, 2, [aPart 0 (some me)], false⟩ = true := by
  show (List.eraseDups (List.filter (fun k => k != Config.packageNumber.toNat) [0, 1])).any (fun k => !(peered 0).flowOpen 0 k) = true
  generalize Config.packageNumber.toNat = x
  have h0 : (peered 0).flowOpen 0 0 = false := by decide +kernel
  have h1 : (peered 0).flowOpen 0 1 = false := by decide +kernel
  obtain _ | x := x <;> simp [h0, h1]

/-- SealAndKeyEvents: a line of another granule than the rotated slot's, a granule of that slot, and counters that can rise. -/
theorem wit_rotation_lines :
    let s := { rotating true with lineKeys := [(0x400, ⟨1, 0⟩), (0x800, ⟨1, 0⟩)] }
    granuleKey (s.granule (0x400 * 64)) = 1 ∧ granuleKey (s.granule (0x800 * 64)) ≠ 1 ∧ s.lineOk (0x400 * 64) = true ∧
      (s.raiseTree (0x400 * 64)).isSome = true ∧ s.lineKeys.find? 0x400 = some ⟨1, 0⟩ ∧ s.lineKeys.find? 0x800 = some ⟨1, 0⟩ ∧
      (∀ e ∈ s.lineKeys, e.1 = 0x400 → e.2 = ⟨1, 0⟩) ∧ (s.key 1).pver = 0 ∧ (s.key 1).ver = 1 ∧ (s.key 1).ty = 1 := by decide +kernel

/-- ScrubAndImageEvents: a SCRUB of two lines of global memory. -/
def scrubbingRange : State := rich.modCore 0 (fun k => { k with misc := [.scrub 0 16 0x10000 128 none ⟨.cistern 0 3, 3, 1⟩ 1] })
theorem wit_scrub_range : scrubbingRange.advanceMayTravel me 0 ⟨.cistern 0 3, 3, 1⟩ = true ∧
    (match (zeroLines engine (128 / 64) (scrubbingRange.modCore 0 (fun k => k)) 0x10000 []).1 with
      | .ok _ v => decide (v.ctrValue (.cistern 0 3) + 1 < 2 ^ 64)
      | _ => false) = true := by decide +kernel

/-- LaunchEvents: a record that waits for a translation and one that fails, a source that is held, a partition that does not run, a foreign
task, and a launch that waits with a pool that is full. -/
def offWait : State :=
  { offered 4 (aSpawn 0) with
    parts := [(0, { richPart with taskLen := 1, taskBase := 0x700000, tenantMap := [0], poolShare := 4 })] }
def offFail : State := { offered 4 (aSpawn 0) with hbm := (offered 4 (aSpawn 0)).hbm.putBytes 0x10100 [1] }
def offHeld : State := (offered 4 (aSpawn 0)).modDie 0 (fun d =>
  { d with inbox := [{ aSpawn 0 with src := .continuation 0 0, held := some (0, 5) }] })
def offIdle : State := { offered 4 (aSpawn 0) with parts := [(0, { richPart with tenantMap := [0], taskLen := 1, state := .configured })] }
theorem wit_offer_waits : (∃ c v t, offFail.offer 0 (aSpawn 0) = .fail c v t) ∧ (∃ t, offWait.offer 0 (aSpawn 0) = .wait t) := by
  constructor
  · have h : (match offFail.offer 0 (aSpawn 0) with
      | .fail _ _ _ => true
      | _ => false) = true := by decide +kernel
    split at h <;> first | exact ⟨_, _, _, ‹_›⟩ | cases h
  · have h : (match offWait.offer 0 (aSpawn 0) with
      | .wait _ => true
      | _ => false) = true := by decide +kernel
    split at h <;> first | exact ⟨_, ‹_›⟩ | cases h
theorem wit_offer_states : offFail.foreignTask 0 0 0 = false ∧ offFail.scheduled 0 = true ∧ offFail.sourceHeld 0 (0, 0) = false ∧
    offWait.foreignTask 0 0 0 = false ∧ offWait.scheduled 0 = true ∧ offHeld.sourceHeld 0 (0, 0) = true ∧
    offHeld.foreignTask 0 0 0 = false ∧ offIdle.scheduled 0 = false ∧ offIdle.foreignTask 0 0 0 = false ∧
    (offered 4 (aSpawn 1)).foreignTask 0 1 0 = true ∧ (aSpawn 0).held = none ∧ (aSpawn 0).chosen = none ∧
    (∀ j, (aSpawn 0).src ≠ .hostNest j) ∧
    (let f := { (hosting 0).iface 0 with lqheld := some { hostEntry with held := some (0, 3) } }
     f.lqheld = some { hostEntry with held := some (0, 3) } ∧ f.tdi = 2) := by
  refine ⟨by decide +kernel, by decide +kernel, by decide +kernel, by decide +kernel, by decide +kernel, by decide +kernel, by decide +kernel,
    by decide +kernel, by decide +kernel, by decide +kernel, rfl, rfl, fun j h => (by cases h), rfl, by decide +kernel⟩
theorem wit_host_first : ∃ v t, ({ hosting 0 with serial := (hosting 0).serial + 1 } : State).offer 0 { hostEntry with id := (hosting 0).serial } =
    .ok v t ∧ t.takes (dieOf v.1) { hostEntry with id := (hosting 0).serial, chosen := some v } = true :=
  eng_ok_of (P := fun (v : Nat × TaskRec) t => t.takes (dieOf v.1) { hostEntry with id := (hosting 0).serial, chosen := some v }) (by decide +kernel)

/-- TaskStartEvents: the body of a nest to start, and a pool task and a nest that wait with one wait that holds and one that does not. -/
def bodyTask : PoolTask := { aTask 0 with launch := { aNestLaunch with src := .nest 8 [1] } }
def startingBody : State :=
  ((nesting true none).modCtx me (fun c => { c with task := none })).modDie 0 (fun d => { d with pool := [bodyTask], cycles := 1 })
theorem wit_starting_body : startingBody.selects 0 0 = true ∧ startingBody.candidate 0 = some bodyTask ∧
    startingBody.stolenBelow 0 bodyTask = false ∧ (startingBody.core 0).x.wf = true ∧ (startingBody.nest? 8).isSome = true ∧
    8 * bodyTask.trec.plen = 0 := by decide +kernel
def waitingPool (v : Nat) : State :=
  (tasked 4 0).modDie 0 (fun d => { d with pool := [{ aTask 0 with waits := [(0, 3, 0), (0, 4, v)] }], waiters := [.task 7 (.cistern 0 3) 0 true] })
def waitingNest (v : Nat) : State :=
  (tasked 4 0).modDie 0 (fun d => { d with nests := [{ aNest false none with waits := [(0, 3, 0), (0, 4, v)] }], waiters := [.nest 8 (.cistern 0 3) 0 true] })
theorem wit_waiting : (∀ v ∈ [0, 5], ((waitingPool v).die 0).waiters.find? Waiter.due = some (.task 7 (.cistern 0 3) 0 true) ∧
      (List.find? (fun (d : Nat × Die) => d.2.pool.any (fun t => t.serial = 7)) (waitingPool v).dies).map Prod.fst = some 0 ∧
      (((waitingPool v).die 0).pool.find? (fun t => t.serial = 7)).isSome = true ∧
      ((waitingNest v).die 0).waiters.find? Waiter.due = some (.nest 8 (.cistern 0 3) 0 true) ∧ ((waitingNest v).nest? 8).isSome = true) ∧
    ((waitingPool 0).settle [(0, 3, 0), (0, 4, 0)] []).1 = [] ∧ ((waitingPool 5).settle [(0, 3, 0), (0, 4, 5)] []).1 = [(0, 4, 5)] := by
  decide +kernel

/-- NestAndRetirementEvents: the END of a nest's body, and a terminated task that is not logged yet with a fault log that takes the record. -/
def endedBody : State :=
  (nesting true none).modCtx me (fun c => { c with task := some { theTask with nest := some (8, 3, [1]) }, ending := some 0 })
def faulted : State :=
  { ended [] none (some 3) with parts := [(0, { richPart with faultLog := 0x10000, faultLogK := 6, taskCtr := 3 })] }
theorem wit_ended_body : (endedBody.ctx me).task = some { theTask with nest := some (8, 3, [1]) } ∧ (endedBody.nest? 8).isSome = true ∧
    (endedBody.ctx me).counts = Counts.zero ∧ (endedBody.core 0).passDone 0 = true ∧ (endedBody.ctx me).ending ≠ none ∧
    (endedBody.ctx me).terminating = none ∧ (endedBody.ctx me).stores = [] ∧ endedBody.ctrValue (.cistern 0 3) + 1 < 2 ^ 64 := by decide +kernel
theorem wit_faulted : (faulted.ctx me).terminating = some 3 ∧ (faulted.ctx me).session = none ∧ (faulted.ctx me).logged = false ∧
    faulted.hbm.wf = true ∧ (faulted.part 0).faultLog % 64 = 0 ∧ 1 ≤ (faulted.part 0).faultLogK ∧
    (faulted.part 0).faultLog + 32 * 2 ^ (faulted.part 0).faultLogK ≤ faulted.hbmSize ∧
    (let slot := 0x10000 + 32 * (1 + leNat (faulted.homeBytes .hbm 0x10000 8) % (2 ^ 6 - 1))
     faulted.lineOk slot = true ∧ (faulted.raiseTree slot).isSome = true) ∧ handleHome (faulted.part 0).taskCtr = .cistern 0 3 ∧
    faulted.diePresent 0 = true ∧ faulted.inQuota 0 0 3 = true ∧ faulted.ctrValue (.cistern 0 3) + 1 < 2 ^ 64 := by decide +kernel

/-- TranslationEvents: nobody waits for a turn, the frames of a page removed are busy or not, and a store through a page that is removed. -/
theorem wit_invalidation : (asking false false).waitedMisses 0 = [] ∧
    (let e : DtcEntry := ⟨0, 0x10000, 16, .hbm 0x10000, true⟩
     let s := (rich.modCtx me (fun c => { c with stores := [aStore] })).modDie 0 (fun d => { d with dtc := [], invalidations := [[e]] })
     s.removedBy 0 = [e] ∧ me ∈ s.whos ∧ aStore ∈ (s.ctx me).stores ∧ aStore.through [e] = true ∧ (s.flush [e]).framesBusy [e] = true) := by
  decide +kernel

/-- InterfaceEvents: the pages once the firmware runs, and before. -/
theorem wit_pages : ({ facing 2 1 with booted := 5 } : State).managed = true ∧ (facing 2 1).managed = false ∧
    ¬((5#32 - ((facing 2 1).iface 0).lqhead).toNat ≤ 2 ^ 2 ∧ (5#32 - ((facing 2 1).iface 0).lqtail).toNat ≤ 2 ^ 2) := by decide +kernel

/-- PowerEvents and LinkAndMeterEvents: a partition that is not free, windows of a machine that runs, and a closed flow. -/
theorem wit_power_refused : (∃ e ∈ managing.parts, e.2.state ≠ .free) ∧ managing.power ≠ .d3cold ∧
    ({ windowed with booted := 5 } : State).managed = true ∧ ({ windowed with booted := 5 } : State).windowsOpen 0x10000 64 = true ∧
    ({ windowed with booted := 5 } : State).windowsOpen 0x20000 64 = false ∧ windowed.managed = false ∧
    ({ base with bootFailed := some 2 } : State).bootFailed ≠ none ∧ flowing.flowOpen 0 1 = true ∧ flowDest 4096 = 1 ∧ flowPart 4096 = 0 ∧
    (flowing.flows.map Prod.fst).Nodup :=
  ⟨⟨(0, richPart), List.mem_singleton.2 rfl, by decide +kernel⟩, by decide +kernel⟩
theorem wit_delivery_waits : ({ flowing with flows := [(4096, ⟨false, 1, [(0, .load me 3)], []⟩)] } : State).deliver (.load me 3) = none := rfl

/-- LayoutEvents: a change that releases a core and one that keeps it, at rest; the old entries of a roll back. -/
def releasing : State := { rich with journal := .preparing ⟨5, [(0, newPart 1)], [], [], [], [], [], []⟩ [(0, richPart)],
                                     parts := [(0, { richPart with state := .configured })] }
theorem wit_releasing : (∀ e ∈ [(0, newPart 1)], (releasing.part e.1).state = .free ∨ (releasing.part e.1).state = .configured) ∧
    (([(0, newPart 1)] : List (Nat × PartDesc)).map Prod.fst).Nodup ∧ releasing.coresTaken 0 = false ∧ 0 ∈ (releasing.part 0).cores ∧
    0 ∉ (newPart 1).cores ∧ (∀ e ∈ [(0, newPart 1)], 5 ∈ (releasing.part e.1).cores → descPresent e.2 = true ∧ 5 ∈ e.2.cores) ∧
    richPart.state = .running := by decide +kernel
theorem wit_rolling : (∀ e ∈ [(0, richPart)], (e.2.state = .running → (rich.part e.1).state = .running) ∧
      (e.2.state = .descheduled → (rich.part e.1).state = .descheduled ∧ rich.rotated e.1 = true)) ∧
    (let s := sharing none .descheduled []
     ∀ e ∈ [(0, { richPart with state := .descheduled })], (s.part e.1).state = .descheduled ∧ s.rotated e.1 = true) ∧
    (stopped.part 0).state = .stopping ∧ (releasing.part 0).state = .configured ∧ (sharing none .configured []).rotated 0 = true ∧
    releasing.rotated 0 = false ∧ managing.granuleUsed 2 = false ∧ managing.granuleUsed 1 = true ∧
    (managing.part 0).flowBase = 0 := by decide +kernel

/-- TimeSliceEvents: no link is down. -/
theorem wit_no_link_lost : (sharing none .descheduled []).linkLost 0 = false ∧
    (sharing none .descheduled [(0, theSaved)]).linkLost 0 = false := by decide +kernel

/-! ### Clauses of the third review -/

/-- ResultsLandAfterTheirLatency: an operation issued after every result so far, and one of the trapped code; issues of different cycles. -/
def laterOp (e : Nat) : VlOp := { opOf (.cread (.cistern 0 3) (.g 5)) with id := 100, era := e }
theorem wit_two_results : base.cur.landed = [] ∧ (laterOp base.cur.era).dropped.contains (.g 5) = false ∧
    earlier base.cur.era base.cur.seq (laterOp base.cur.era).era (laterOp base.cur.era).id = true ∧
    base.cur.era < (laterOp (base.cur.era + 1)).era ∧ (∀ j ∈ [0, 2], j < 3) ∧ 2 + 5 ≠ 3 ∧ 3 < 2 + 5 ∧ 0 + 1 < 3 := by decide +kernel

/-- R23: of two results to one register the one issued later stays, although it lands first. -/
theorem test_later_issue_stays :
    (((Ctx.tickLatch)^[20] ((base.cur.push 20 (.g 5) 1 0 .pub 0).push 1 (.g 5) 2 0 .pub 0)).readG 5).val = 2 := by decide +kernel

/-- ControlSyllablesRun: a bundle with an END, of a context that was in supervisor mode. -/
theorem wit_end_supervisor : ({ base with issue := { base.issue with ended := true } } : State).issue.ended = true ∧ (sup base).cur.priv = true ∧
    base.cur.terminating = none := by decide +kernel

/-- PrivilegedInTaskMode: room in CP, a handle that need not wait, a SCRUB of no buffer and one whose core is ready. -/
theorem wit_privileged_commands : base.cur.counts.cp < 32 ∧ base.checkHandle base.who base.cur.part base.cur.hashKey true (base.gw 5) = .trap 0x06 0 ∧
    (base.gw 4).toNat % 16 = 0 ∧ ((setG base 4 15).gw 4).toNat % 16 ≠ 0 ∧ (base.core base.issue.core).scrubReady base.issue.ctx = true := by
  decide +kernel

/-- ControlRegistersReadAndWrite: KSLOT from a LIMM. -/
theorem wit_kslot_limm : ((7 : BitVec 20).setWidth 64 : Word) = 7 ∧
    ((base.modKey 7 (fun k => { k with ty := 2, part := 0 })).key ((7 : Word).toNat % 8192)).ty = 2 ∧
    ((base.modKey 7 (fun k => { k with ty := 2, part := 0 })).key 7).part.toNat = base.cur.part := by decide +kernel

/-- AtomicsIssue: of two held stores one reaches the word and one does not. -/
theorem wit_own_bytes :
    let s := rich.modCtx me (fun c => { c with stores := [⟨5, 0, .hbm, 0x1000C, List.replicate 8 1, 0, .pub, ⟨0, 0x10, true⟩⟩,
      ⟨6, 0, .hbm, 0x10010, [1], 0, .pub, ⟨0, 0x10, true⟩⟩] })
    let mine (t : Store) : Bool := decide (t.id < 9) && decide (t.place = .hbm) && decide (t.addr < 0x10008 + 8) && decide (0x10008 < t.addr + t.bytes.length)
    (s.ctx me).stores.map mine = [true, false] ∧ (rich.ctx me).stores = [] ∧ 0 < 8 := by decide +kernel

/-- PublicationEvents: an advance whose bundle has read no counter. -/
theorem wit_not_read : (advancing 0).readBefore ⟨.cistern 0 3, 3, 1, 2, none, some me, 2⟩ = false := by decide +kernel

/-- ReturnsAndFills: a load over a write that its context sees, one that cannot reach its core, and no write at all. -/
theorem wit_settled :
    let o : VlOp := opOf (.load [⟨.hbm, 0x10008, 0x10008, 8, 0, List.replicate 8 none, ⟨0, 0x10, false⟩⟩] (.g 5) 0)
    let mine : Write := ⟨0, .hbm, 0x10008, [7, 7], [0, 0], .core, .core 0, some me⟩
    let far : Write := ⟨4, .hbm, 0x1000C, [9], [0], .core, .core 5, none⟩
    mine.seenBy me o.vis o.born = true ∧ far.seenBy me o.vis o.born = false ∧ far.reaches 0 = false ∧
    (∀ t ∈ [mine, far], t.place = .hbm ∧ t.addr < 0x10008 + 8 ∧ 0x10008 < t.addr + t.bytes.length) ∧
    rich.rangeOk .hbm 0x10008 8 = true := by decide +kernel

/-- LaunchEvents: a launch whose core lies on another die, with none and with one before it that has a core there; a source that is held
and one that is not. -/
def crossing (x : List Launch) : State := (tasked 4 0).modDie 0 (fun d => { d with inbox := x })
def pickedBefore : Launch := { aSpawn 0 with id := 3, src := .continuation 0 0, chosen := some (256, (aTask 0).trec), picked := 1 }
theorem wit_in_turn : (crossing []).inTurn 0 1 (aSpawn 0) = true ∧ (crossing [pickedBefore]).inTurn 0 1 (aSpawn 0) = false ∧
    (crossing [pickedBefore]).inTurn 0 0 (aSpawn 0) = true ∧ (crossing [pickedBefore]).inTurn 0 1 pickedBefore = true ∧
    (crossing [{ pickedBefore with held := some (1, 5) }]).inTurn 0 1 (aSpawn 0) = true ∧ dieOf 256 = 1 := by decide +kernel
theorem wit_hold : (∀ x ∈ (crossing [pickedBefore]).heldLaunches 0 0, x.source ≠ (aSpawn 0).source) ∧
    (let h : Launch := { pickedBefore with held := some (1, 5) }
     (∃ x ∈ (crossing [h]).heldLaunches 1 0, x.source = pickedBefore.source) ∧
     ∀ x ∈ (crossing [h]).heldLaunches 1 0, x.source = pickedBefore.source → x.held = some (1, 5)) := by decide +kernel

/-- TaskStartEvents: a die of the package and one that it lacks. -/
theorem wit_dies : rich.diePresent 0 = true ∧ ({ rich with feat := 1 } : State).diePresent 3 = false := by decide +kernel

/-- NestAndRetirementEvents: the next access of a staging waits, fails, or goes on. -/
def stageKind : Eng Nest → Nat
  | .ok _ _ => 0
  | .wait _ => 1
  | .fail _ _ _ => 2
theorem wit_stage_steps : ([0x10300, 0x700000, 0x10200].map (fun a =>
      let s : State := { nesting false (some [0]) with hbm := (nesting false none).hbm.putBytes 0x10300 (leBytes 8 0x10000 ++ leBytes 8 0x10400 ++ leBytes 8 64) }
      let n : Nest := { aNest false (some [0]) with nrec := { (aNest false (some [0])).nrec with wsAddr := a } }
      stageKind (s.stageStep (s.stageCtx 0 n) n))) = [0, 1, 2] ∧
    (aNest true none).nrec.wsn ≤ ({ aNest true none with ranges := 1 } : Nest).ranges := by decide +kernel

/-- InterfaceEvents: link slots, and a layout change that writes the interface or names its partition. -/
def heldIface (t : BitVec 2) : State :=
  { facing t 1 with booted := 5, journal := .preparing ⟨5, [(0, newPart 0)], [], [], [], [], [], []⟩ [] }
theorem wit_iface_held : ((withKey (withKey (facing 0 1) 5 4) 6 4).key 5).ty = 4 ∧ ((withKey (withKey (facing 0 1) 5 4) 6 4).key 6).ty = 4 ∧
    (5 : Nat) ≠ 6 ∧ ((facing 0 1).key 5).ty ≠ 4 ∧ (heldIface 0).ifaceHeld 0 ((heldIface 0).iface 0).owner = true ∧
    (heldIface 0).writeHeld 0 .control 0 = true ∧ (facing 0 1).pendingChange = none ∧ (heldIface 0).managed = true := by decide +kernel

/-- LayoutEvents: a prepared change whose interfaces are open and one that waits; a granule in which another partition holds a range, and a
key slot that a change uses. -/
def prepared (t : BitVec 2) : State :=
  { changing (.prepared ⟨5, [(1, newPart 1)], [], [], [], [(0, 0)], [], []⟩ []) with ifaces := [(0, { Iface.reset with tdi := t, st := 1 })] }
theorem wit_prepared : (match (prepared 0).journal with
      | .prepared c _ => (prepared 0).ifacesOpen c && !(prepared 2).ifacesOpen c
      | _ => false) = true ∧
    (changing (.prepared (aChange 1) [])).granuleTaken (0x200000 / 65536) 0x00000504 = true ∧
    (changing (.prepared (aChange 1) [])).slotHeld 3 = true ∧ (changing .idle).slotHeld 3 = false := by decide +kernel

/-- TimeSliceEvents: a slice that ends while a load is outstanding, which then completes; a save area, and a tree that is whole. -/
def loading : State :=
  withOp (sharing (some 0) .running []) { opOf (.load [⟨.hbm, 0x10008, 0x10008, 8, 0, List.replicate 8 none, ⟨0, 0x10, false⟩⟩] (.g 5) 0) with wait := 3 }
theorem wit_outstanding : (loading.ctx me).ops.length = 1 ∧ loading.drained (loading.part 0).cores = false ∧
    (let f := loading.freezePart 0
     (f.drain (loading.part 0).cores (f.drainRounds (loading.part 0).cores)).drained (loading.part 0).cores) = true ∧
    loading.treeSpent = [] ∧ loading.hbm.wf = true ∧ 0x1000000 % 64 = 0 ∧ loading.treeMajor = [] := by decide +kernel
theorem wit_load_completes : ∃ t, exec (.glReturn 0 0 0) (loading.modCtx me (fun c => { c with ops := c.ops.map (fun o => { o with wait := 0 }) })) = .next t :=
  ⟨_, rfl⟩

end Sys2Proof.Tests
end

section
/-! PROOF. The guard of a syllable (R28): when it is true, and that a syllable whose guard is false leaves the state as it was. -/

namespace Sys2Proof.Machine

/-- A guard is true where its predicate's value is not PN (R28). -/
theorem Ctx.guardTrue_iff (c : Ctx) (g : Guard) : c.guardTrue g = true ↔
    ((c.readP g.pg).val = true ∧ g.pn = false) ∨ ((c.readP g.pg).val = false ∧ g.pn = true) := by
  unfold Ctx.guardTrue
  cases (c.readP g.pg).val <;> cases g.pn <;> decide

/-- The guard of a syllable written without one reads p0, which is 1 (R28, R41). -/
@[simp] theorem Ctx.guardTrue_always (c : Ctx) : c.guardTrue .always = true := rfl

/-- R28 as the meanings realise it: whatever a syllable does, it does under its own guard. A LIMM has no guard of its own and an event
is no syllable; every other meaning opens with `State.guarded`, at once or through the operation that it shares with its like. -/
theorem exec_eq_guarded {i : Instr} (hi : i.isSyllable = true) (hl : ∀ l, i ≠ .limm l) :
    ∃ f : State → Out, ∀ s, exec i s = s.guarded i.guard f := by
  cases i <;> cases hi
  case limm l => exact absurd rfl (hl l)
  all_goals exact ⟨_, fun _ => rfl⟩

/-- A syllable whose guard is false has no effect on any state (R28). -/
theorem exec_of_guard_false {i : Instr} {s : State} (hi : i.isSyllable = true) (hl : ∀ l, i ≠ .limm l)
    (hg : s.cur.guardTrue i.guard = false) : exec i s = .next s := by
  obtain ⟨f, hf⟩ := exec_eq_guarded hi hl
  rw [hf, guarded_false hg]

/-- Settles O8: the two readings of a guard, and the one law under which every syllable runs. -/
theorem falseGuardHasNoEffect : Obligations.FalseGuardHasNoEffect :=
  ⟨Ctx.guardTrue_iff, Ctx.guardTrue_always, fun _ _ => exec_of_guard_false⟩

end Sys2Proof.Machine
end

section
/-! PROOF. The bank address of S space (R94). The hash alters the bank alone, by an exclusive-or with bits that depend on the row and the
HASHKEY: an address is recovered from its bank address by the same exclusive-or, so for each key the map is one-to-one onto the 4 MiB. -/

namespace Sys2Proof.Machine

/-- R94's h: the bits by which a row's bank is altered under a HASHKEY. -/
def sTwist (k : Word) (row : Nat) : Nat :=
  let u := (row ^^^ bitsOf k.toNat 0 9) * (2 * bitsOf k.toNat 9 12 + 1) % 512
  (u % 32) ^^^ (u / 32)

/-- The window-adjusted address whose bank address under a HASHKEY is `p`. -/
def sUnhash (k : Word) (p : Nat) : Nat :=
  p / 256 % 512 * 8192 + (p / 131072 ^^^ sTwist k (p / 256 % 512)) * 256 + p % 256

/-- Exclusive-or keeps bank numbers below the 32 banks. -/
theorem xor_lt_32 {x y : Nat} (hx : x < 32) (hy : y < 32) : x ^^^ y < 32 := Nat.xor_lt_two_pow (n := 5) hx hy

theorem sTwist_lt (k : Word) (row : Nat) : sTwist k row < 32 := by
  unfold sTwist
  exact xor_lt_32 (by omega) (by omega)

/-- The bank of an address under a HASHKEY: its line's low bits, altered by its row's. -/
def sBankOf (k : Word) (a : Nat) : Nat := a / 256 % 32 ^^^ sTwist k (a / 256 / 32 % 512)

theorem sBankOf_lt (k : Word) (a : Nat) : sBankOf k a < 32 := xor_lt_32 (by omega) (sTwist_lt ..)

/-- R94's line[4:0]. -/
theorem line_low (a : Nat) : a / 256 % 16384 % 32 = a / 256 % 32 := by omega

/-- R94's row is line[13:5]. -/
theorem line_row (a : Nat) : a / 256 % 16384 / 32 = a / 256 / 32 % 512 := by omega

/-- A bank address is bank, row and byte, and only its bank depends on the HASHKEY. -/
theorem sHash_eq (k : Word) (a : Nat) : sHash k a = sBankOf k a * 131072 + a / 256 / 32 % 512 * 256 + a % 256 := by
  simp only [sHash, sBankOf, sTwist, line_low, line_row]

/-! ### The parts of a bank address -/

theorem sBank_sHash (k : Word) (a : Nat) : sBank (sHash k a) = sBankOf k a := by
  rw [sBank, sHash_eq]
  omega

theorem sHash_row (k : Word) (a : Nat) : sHash k a / 256 % 512 = a / 256 / 32 % 512 := by
  rw [sHash_eq]
  omega

theorem sHash_byte (k : Word) (a : Nat) : sHash k a % 256 = a % 256 := by
  rw [sHash_eq]
  omega

/-! ### The inverse -/

/-- Under one HASHKEY an address is recovered from its bank address. -/
theorem sUnhash_sHash (k : Word) {a : Nat} (ha : a < 2 ^ 22) : sUnhash k (sHash k a) = a := by
  have hbank : sHash k a / 131072 = sBankOf k a := sBank_sHash k a
  rw [sUnhash, sHash_row, sHash_byte, hbank, sBankOf, Nat.xor_xor_cancel_right]
  omega

/-- The bank that `sUnhash` takes the twist from is a bank. -/
theorem untwisted_lt (k : Word) {p : Nat} (hp : p < 2 ^ 22) : p / 131072 ^^^ sTwist k (p / 256 % 512) < 32 :=
  xor_lt_32 (by omega) (sTwist_lt ..)

theorem sUnhash_lt (k : Word) {p : Nat} (hp : p < 2 ^ 22) : sUnhash k p < 2 ^ 22 := by
  have := untwisted_lt k hp
  unfold sUnhash
  omega

/-- Every byte of the banks is the one of some address. -/
theorem sHash_sUnhash (k : Word) {p : Nat} (hp : p < 2 ^ 22) : sHash k (sUnhash k p) = p := by
  have hlt := untwisted_lt k hp
  have hlow : sUnhash k p / 256 % 32 = p / 131072 ^^^ sTwist k (p / 256 % 512) := by
    unfold sUnhash
    omega
  have hrow : sUnhash k p / 256 / 32 % 512 = p / 256 % 512 := by
    unfold sUnhash
    omega
  have hbyte : sUnhash k p % 256 = p % 256 := by
    unfold sUnhash
    omega
  rw [sHash_eq, sBankOf, hrow, hlow, hbyte, Nat.xor_xor_cancel_right]
  omega

/-! ### The clauses of R94 -/

theorem sHash_injective (k : Word) {a b : Nat} (ha : a < 2 ^ 22) (hb : b < 2 ^ 22) (h : sHash k a = sHash k b) : a = b := by
  rw [← sUnhash_sHash k ha, h, sUnhash_sHash k hb]

theorem sHash_surjective (k : Word) {p : Nat} (hp : p < 2 ^ 22) : ∃ a, a < 2 ^ 22 ∧ sHash k a = p :=
  ⟨sUnhash k p, sUnhash_lt k hp, sHash_sUnhash k hp⟩

/-- Bits 63:21 of a HASHKEY do not enter. -/
theorem sHash_congr_key {k l : Word} (h : k.toNat % 2 ^ 21 = l.toNat % 2 ^ 21) (a : Nat) : sHash k a = sHash l a := by
  have hxor : bitsOf k.toNat 0 9 = bitsOf l.toNat 0 9 := by
    unfold bitsOf
    omega
  have hmul : bitsOf k.toNat 9 12 = bitsOf l.toNat 9 12 := by
    unfold bitsOf
    omega
  simp only [sHash, hxor, hmul]

/-- A whole 256-byte line lies in one bank. -/
theorem sBank_sHash_of_same_line (k : Word) {a b : Nat} (h : a / 256 = b / 256) : sBank (sHash k a) = sBank (sHash k b) := by
  rw [sBank_sHash, sBank_sHash, sBankOf, sBankOf, h]

/-- The bank as R94 writes it, from the line and the two fields of the HASHKEY. -/
theorem sBankOf_rule (k : Word) (a : Nat) :
    let line := a / 2 ^ 8 % 2 ^ 14
    let t := line / 2 ^ 5 ^^^ (k.toNat % 2 ^ 9)
    let u := t * (2 * (k.toNat / 2 ^ 9 % 2 ^ 12) + 1) % 512
    line % 2 ^ 5 ^^^ ((u % 2 ^ 5) ^^^ (u / 2 ^ 5)) = sBankOf k a := by
  simp only [sBankOf, sTwist, bitsOf, Nat.reducePow, Nat.div_one, line_low, line_row]

/-- Settles O34: the hash alters the bank alone, by an exclusive-or that the address's row and the HASHKEY determine. -/
theorem spaceHash : Obligations.SpaceHash := by
  refine ⟨fun k a _ => ?_, fun k _ _ => sHash_injective k, fun k _ => sHash_surjective k, fun _ _ a h => sHash_congr_key h a,
    fun k _ _ => sBank_sHash_of_same_line k, fun _ _ => rfl, by decide⟩
  intro line row t u h bank
  have hbank : bank = sBankOf k a := sBankOf_rule k a
  have hrow : row = a / 256 / 32 % 512 := line_row a
  refine ⟨hbank ▸ sBankOf_lt k a, by omega, ?_⟩
  rw [hbank, hrow]
  exact sHash_eq k a

end Sys2Proof.Machine
end
